-- ==== Sys2Proof/Word.lean ====
section
/-!
DEFINITION. The value types of the CORE (00_scope.md R6, R9): all values are unsigned words of fixed width.
-/

namespace Sys2Proof

/-- An 8-bit value: a memory cell, a general register, a counter (10_state.md R15, R16, R24). -/
abbrev Byte := BitVec 8

/-- A 16-bit instruction word (30_encoding.md R57). -/
abbrev Word := BitVec 16

/-- A 4-bit field (30_encoding.md R60). -/
abbrev Nibble := BitVec 4

/-- A 4-bit index of a general register V0..VF (10_state.md R16). -/
abbrev Reg := BitVec 4

/-- A 12-bit data address, also the width of I and of the NNN field (00_scope.md R6, 10_state.md R23). -/
abbrev Addr := BitVec 12

/-- A program-counter value; 13 bits hold the legal range 0..0x10FE (10_state.md R20; log 6). -/
abbrev PcVal := BitVec 13

end Sys2Proof
end

