-- ==== Sys2Proof/Syntax.lean ====
section
/-!
DEFINITION. The instructions: one constructor per row of spec/opcode_table.json (30_encoding.md R62), with the row's
fields (R60) as arguments. The no-op rows keep their fields, so that no bit of a word is dropped (log 16).
-/

namespace Sys2Proof

/-- An instruction of the CORE. Each constructor's comment gives its pattern and its rule. -/
inductive Instr where
  /-- 00E0, clear display (43_display.md R106). -/
  | cls
  /-- 00EE, return from subroutine (40_control.md R74). -/
  | ret
  /-- 0NNN other than 00E0 and 00EE, no-op (R73). -/
  | sys (nnn : Addr)
  /-- 1NNN, jump (R75). -/
  | jp (nnn : Addr)
  /-- 2NNN, call subroutine (R76). -/
  | call (nnn : Addr)
  /-- 3XNN, skip if equal immediate (R78). -/
  | seImm (x : Reg) (nn : Byte)
  /-- 4XNN, skip if not equal immediate (R79). -/
  | sneImm (x : Reg) (nn : Byte)
  /-- 5XY0, skip if registers equal (R80). -/
  | seReg (x y : Reg)
  /-- 5XYN with N nonzero, no-op (R82). -/
  | nop5 (x y : Reg) (n : Nibble)
  /-- 6XNN, load immediate (41_alu.md R84). -/
  | ldImm (x : Reg) (nn : Byte)
  /-- 7XNN, add immediate without flag (R85). -/
  | addImm (x : Reg) (nn : Byte)
  /-- 8XY0, copy register (R86). -/
  | ldReg (x y : Reg)
  /-- 8XY1, bitwise OR (R87). -/
  | orReg (x y : Reg)
  /-- 8XY2, bitwise AND (R88). -/
  | andReg (x y : Reg)
  /-- 8XY3, bitwise XOR (R89). -/
  | xorReg (x y : Reg)
  /-- 8XY4, add with carry to VF (R90). -/
  | addReg (x y : Reg)
  /-- 8XY5, Vx minus Vy, no-borrow to VF (R91). -/
  | sub (x y : Reg)
  /-- 8XY6, Vx = Vy shifted right, bit out to VF (R92). -/
  | shr (x y : Reg)
  /-- 8XY7, Vx = Vy minus Vx, no-borrow to VF (R93). -/
  | subn (x y : Reg)
  /-- 8XYE, Vx = Vy shifted left, bit out to VF (R94). -/
  | shl (x y : Reg)
  /-- 8XYN with N one of 8, 9, A, B, C, D, F, no-op (R95). -/
  | nop8 (x y : Reg) (n : Nibble)
  /-- 9XY0, skip if registers differ (40_control.md R81). -/
  | sneReg (x y : Reg)
  /-- 9XYN with N nonzero, no-op (R82). -/
  | nop9 (x y : Reg) (n : Nibble)
  /-- ANNN, load I (42_index_memory.md R98). -/
  | ldI (nnn : Addr)
  /-- BNNN, jump to NNN + V0 (40_control.md R77). -/
  | jpV0 (nnn : Addr)
  /-- CXNN, random byte AND mask (41_alu.md R96). -/
  | rnd (x : Reg) (nn : Byte)
  /-- DXYN, draw a sprite of N lines (43_display.md R107). -/
  | drw (x y : Reg) (n : Nibble)
  /-- EX9E, skip if key pressed (44_timers_input.md R112). -/
  | skp (x : Reg)
  /-- EXA1, skip if key not pressed (R113). -/
  | sknp (x : Reg)
  /-- EXNN with NN neither 9E nor A1, no-op (R114). -/
  | nopE (x : Reg) (nn : Byte)
  /-- FX07, read the delay counter (R115). -/
  | ldVxDt (x : Reg)
  /-- FX0A, wait for a key press (R116). -/
  | ldVxK (x : Reg)
  /-- FX15, write the delay counter (R117). -/
  | ldDt (x : Reg)
  /-- FX18, write the sound counter (R118). -/
  | ldSt (x : Reg)
  /-- FX1E, add Vx to I (42_index_memory.md R99). -/
  | addI (x : Reg)
  /-- FX29, point I at a font glyph (R100). -/
  | ldF (x : Reg)
  /-- FX33, store binary-coded decimal (R101). -/
  | bcd (x : Reg)
  /-- FX55, block store V0..VX (R102). -/
  | store (x : Reg)
  /-- FX65, block load V0..VX (R103). -/
  | load (x : Reg)
  /-- FXNN with NN none of the selectors above, no-op (44_timers_input.md R119). -/
  | nopF (x : Reg) (nn : Byte)
deriving DecidableEq, Repr

end Sys2Proof
end

