-- ==== Sys2Proof/WellFormed.lean ====
section
/-!
DEFINITION. Which terms of `Instr` are instructions. Field widths are in the types (30_encoding.md R60); what is left to
check is that a no-op row carries no word of a more specific row of its family (R62, R66).
-/

namespace Sys2Proof

/-- The low nibbles of family 8 that a row of its own names (R62). -/
def family8Selectors : List Nibble := [0x0#4, 0x1#4, 0x2#4, 0x3#4, 0x4#4, 0x5#4, 0x6#4, 0x7#4, 0xE#4]

/-- The selectors of family E that a row of its own names (R62). -/
def familyESelectors : List Byte := [0x9E#8, 0xA1#8]

/-- The selectors of family F that a row of its own names (R62). -/
def familyFSelectors : List Byte := [0x07#8, 0x0A#8, 0x15#8, 0x18#8, 0x1E#8, 0x29#8, 0x33#8, 0x55#8, 0x65#8]

/-- A term is well formed when its word matches its own row and no more specific one (R62, R66). -/
def Instr.wf : Instr → Bool
  | .sys nnn => nnn != 0x0E0#12 && nnn != 0x0EE#12
  | .nop5 _ _ n => n != 0#4
  | .nop8 _ _ n => !family8Selectors.contains n
  | .nop9 _ _ n => n != 0#4
  | .nopE _ nn => !familyESelectors.contains nn
  | .nopF _ nn => !familyFSelectors.contains nn
  | .cls => true
  | .ret => true
  | .jp _ => true
  | .call _ => true
  | .seImm _ _ => true
  | .sneImm _ _ => true
  | .seReg _ _ => true
  | .ldImm _ _ => true
  | .addImm _ _ => true
  | .ldReg _ _ => true
  | .orReg _ _ => true
  | .andReg _ _ => true
  | .xorReg _ _ => true
  | .addReg _ _ => true
  | .sub _ _ => true
  | .shr _ _ => true
  | .subn _ _ => true
  | .shl _ _ => true
  | .sneReg _ _ => true
  | .ldI _ => true
  | .jpV0 _ => true
  | .rnd _ _ => true
  | .drw _ _ _ => true
  | .skp _ => true
  | .sknp _ => true
  | .ldVxDt _ => true
  | .ldVxK _ => true
  | .ldDt _ => true
  | .ldSt _ => true
  | .addI _ => true
  | .ldF _ => true
  | .bcd _ => true
  | .store _ => true
  | .load _ => true

end Sys2Proof
end

