-- ==== Sys2Proof/Decode.lean ====
section
/-!
DEFINITION. From bytes to instructions (30_encoding.md R57 to R67) and back. `decodeWord` is total on 16-bit words, as
R71 says the decode is; `decode` reads a byte sequence and rejects, by name, one too short to hold an instruction.
-/

namespace Sys2Proof

/-! ## Fields of a word (R58, R60) -/

/-- The opcode family, w[15:12]. -/
def fieldFamily (w : Word) : Nibble := w.extractLsb' 12 4
/-- X, w[11:8]. -/
def fieldX (w : Word) : Reg := w.extractLsb' 8 4
/-- Y, w[7:4]. -/
def fieldY (w : Word) : Reg := w.extractLsb' 4 4
/-- N, w[3:0]. -/
def fieldN (w : Word) : Nibble := w.extractLsb' 0 4
/-- NN, w[7:0]. -/
def fieldNN (w : Word) : Byte := w.extractLsb' 0 8
/-- NNN, w[11:0]. -/
def fieldNNN (w : Word) : Addr := w.extractLsb' 0 12

/-- The word of two bytes, the first holding the high half (20_memory.md R40). -/
def wordOfBytes (first second : Byte) : Word := first ++ second

/-- The byte stored first, the high half of the word (R40). -/
def firstByte (w : Word) : Byte := w.extractLsb' 8 8

/-- The byte stored second, the low half of the word (R40). -/
def secondByte (w : Word) : Byte := w.extractLsb' 0 8

/-! ## The opcode map (R62) -/

/-- Family 0: two fixed words, every other word the no-op SYS. -/
def decodeFamily0 (nnn : Addr) : Instr :=
  if nnn = 0x0E0#12 then .cls
  else if nnn = 0x0EE#12 then .ret
  else .sys nnn

/-- Family 5: only N = 0 is recognized (R66). -/
def decodeFamily5 (x y : Reg) (n : Nibble) : Instr :=
  if n = 0#4 then .seReg x y else .nop5 x y n

/-- Family 8: the sub-opcode is N. -/
def decodeFamily8 (x y : Reg) (n : Nibble) : Instr :=
  match n.toNat with
  | 0x0 => .ldReg x y
  | 0x1 => .orReg x y
  | 0x2 => .andReg x y
  | 0x3 => .xorReg x y
  | 0x4 => .addReg x y
  | 0x5 => .sub x y
  | 0x6 => .shr x y
  | 0x7 => .subn x y
  | 0xE => .shl x y
  | _ => .nop8 x y n

/-- Family 9: only N = 0 is recognized (R66). -/
def decodeFamily9 (x y : Reg) (n : Nibble) : Instr :=
  if n = 0#4 then .sneReg x y else .nop9 x y n

/-- Family E: the selector is NN. -/
def decodeFamilyE (x : Reg) (nn : Byte) : Instr :=
  match nn.toNat with
  | 0x9E => .skp x
  | 0xA1 => .sknp x
  | _ => .nopE x nn

/-- Family F: the selector is NN. -/
def decodeFamilyF (x : Reg) (nn : Byte) : Instr :=
  match nn.toNat with
  | 0x07 => .ldVxDt x
  | 0x0A => .ldVxK x
  | 0x15 => .ldDt x
  | 0x18 => .ldSt x
  | 0x1E => .addI x
  | 0x29 => .ldF x
  | 0x33 => .bcd x
  | 0x55 => .store x
  | 0x65 => .load x
  | _ => .nopF x nn

/-- The one row of R62 that the word matches, with its fields (40_control.md R71). The last line is family F, the only
value left for four bits. -/
def decodeWord (w : Word) : Instr :=
  match (fieldFamily w).toNat with
  | 0x0 => decodeFamily0 (fieldNNN w)
  | 0x1 => .jp (fieldNNN w)
  | 0x2 => .call (fieldNNN w)
  | 0x3 => .seImm (fieldX w) (fieldNN w)
  | 0x4 => .sneImm (fieldX w) (fieldNN w)
  | 0x5 => decodeFamily5 (fieldX w) (fieldY w) (fieldN w)
  | 0x6 => .ldImm (fieldX w) (fieldNN w)
  | 0x7 => .addImm (fieldX w) (fieldNN w)
  | 0x8 => decodeFamily8 (fieldX w) (fieldY w) (fieldN w)
  | 0x9 => decodeFamily9 (fieldX w) (fieldY w) (fieldN w)
  | 0xA => .ldI (fieldNNN w)
  | 0xB => .jpV0 (fieldNNN w)
  | 0xC => .rnd (fieldX w) (fieldNN w)
  | 0xD => .drw (fieldX w) (fieldY w) (fieldN w)
  | 0xE => decodeFamilyE (fieldX w) (fieldNN w)
  | _ => decodeFamilyF (fieldX w) (fieldNN w)

/-- Why a byte sequence is not decoded. -/
inductive DecodeError where
  /-- Fewer than two bytes are left: every instruction is two bytes (R57; log 20). -/
  | truncated
deriving DecidableEq, Repr

/-- The instruction at the front of a byte sequence, and the bytes after it (R57, R67: a decoder always consumes two). -/
def decode : List Byte → Except DecodeError (Instr × List Byte)
  | first :: second :: rest => .ok (decodeWord (wordOfBytes first second), rest)
  | [_] => .error .truncated
  | [] => .error .truncated

/-! ## The encoder (R61, R62) -/

/-- Format NNN: F[15:12] NNN[11:0]. -/
def formatNNN (family : Nibble) (nnn : Addr) : Word := family ++ nnn

/-- Formats XNN and XSEL: F[15:12] X[11:8] NN[7:0]. -/
def formatXNN (family : Nibble) (x : Reg) (nn : Byte) : Word := family ++ (x ++ nn)

/-- Format XYN: F[15:12] X[11:8] Y[7:4] N[3:0]. -/
def formatXYN (family : Nibble) (x y : Reg) (n : Nibble) : Word := family ++ (x ++ (y ++ n))

/-- The word of an instruction, from its row of R62. -/
def encode : Instr → Word
  | .cls => 0x00E0#16
  | .ret => 0x00EE#16
  | .sys nnn => formatNNN 0x0#4 nnn
  | .jp nnn => formatNNN 0x1#4 nnn
  | .call nnn => formatNNN 0x2#4 nnn
  | .seImm x nn => formatXNN 0x3#4 x nn
  | .sneImm x nn => formatXNN 0x4#4 x nn
  | .seReg x y => formatXYN 0x5#4 x y 0x0#4
  | .nop5 x y n => formatXYN 0x5#4 x y n
  | .ldImm x nn => formatXNN 0x6#4 x nn
  | .addImm x nn => formatXNN 0x7#4 x nn
  | .ldReg x y => formatXYN 0x8#4 x y 0x0#4
  | .orReg x y => formatXYN 0x8#4 x y 0x1#4
  | .andReg x y => formatXYN 0x8#4 x y 0x2#4
  | .xorReg x y => formatXYN 0x8#4 x y 0x3#4
  | .addReg x y => formatXYN 0x8#4 x y 0x4#4
  | .sub x y => formatXYN 0x8#4 x y 0x5#4
  | .shr x y => formatXYN 0x8#4 x y 0x6#4
  | .subn x y => formatXYN 0x8#4 x y 0x7#4
  | .shl x y => formatXYN 0x8#4 x y 0xE#4
  | .nop8 x y n => formatXYN 0x8#4 x y n
  | .sneReg x y => formatXYN 0x9#4 x y 0x0#4
  | .nop9 x y n => formatXYN 0x9#4 x y n
  | .ldI nnn => formatNNN 0xA#4 nnn
  | .jpV0 nnn => formatNNN 0xB#4 nnn
  | .rnd x nn => formatXNN 0xC#4 x nn
  | .drw x y n => formatXYN 0xD#4 x y n
  | .skp x => formatXNN 0xE#4 x 0x9E#8
  | .sknp x => formatXNN 0xE#4 x 0xA1#8
  | .nopE x nn => formatXNN 0xE#4 x nn
  | .ldVxDt x => formatXNN 0xF#4 x 0x07#8
  | .ldVxK x => formatXNN 0xF#4 x 0x0A#8
  | .ldDt x => formatXNN 0xF#4 x 0x15#8
  | .ldSt x => formatXNN 0xF#4 x 0x18#8
  | .addI x => formatXNN 0xF#4 x 0x1E#8
  | .ldF x => formatXNN 0xF#4 x 0x29#8
  | .bcd x => formatXNN 0xF#4 x 0x33#8
  | .store x => formatXNN 0xF#4 x 0x55#8
  | .load x => formatXNN 0xF#4 x 0x65#8
  | .nopF x nn => formatXNN 0xF#4 x nn

/-- The bytes of an instruction as they lie in Memory, the high half first (20_memory.md R40). -/
def encodeBytes (i : Instr) : List Byte := [firstByte (encode i), secondByte (encode i)]

/-! ## Words as the opcode table numbers them -/

/-- The low `nbits` bits of `w` as one 16-bit word; the bits above are zero. -/
def tableWord (nbits w : Nat) : Word := BitVec.ofNat 16 (w % 2 ^ nbits)

/-- What the decoder reads from the word of an opcode-table row, laid out in bytes as the hardware stores it. -/
def decodeTableWord (nbits w : Nat) : Option Instr :=
  match decode [firstByte (tableWord nbits w), secondByte (tableWord nbits w)] with
  | .ok (i, _) => some i
  | .error _ => none

end Sys2Proof
end

