-- ==== Sys2Proof/Machine/Display.lean ====
section
/-!
DEFINITION. The display buffer (10_state.md R26) and the sprite compositor over it (43_display.md R105 to R110).
-/

namespace Sys2Proof.Machine

/-- 32 rows of 8 bytes; the most significant bit of a byte is its leftmost pixel (R26). -/
abbrev Display := Vector (Vector Byte 8) 32

/-- The buffer with no pixel lit. -/
def Display.clear : Display := Vector.replicate 32 (Vector.replicate 8 0#8)

/-- Disp[r][c]. -/
def Display.get (d : Display) (r : Fin 32) (c : Fin 8) : Byte := d[r][c]

/-- Disp[r][c] <- b. -/
def Display.put (d : Display) (r : Fin 32) (c : Fin 8) (b : Byte) : Display := d.set r (d[r].set c b)

/-- Pixel (px, py): bit 7 - (px mod 8) of Disp[py][px div 8] (R26). -/
def Display.pixel (d : Display) (px : Fin 64) (py : Fin 32) : Bool :=
  (d.get py (Fin.ofNat 8 (px.val / 8))).getLsbD (7 - px.val % 8)

/-- The 256 bytes in row-major order, as the host sees them (R26, 60_exceptions.md R137). -/
def Display.bytes (d : Display) : List Byte := d.toList.flatMap fun row => row.toList

/-- One byte of a sprite line composited: the new buffer, and whether a lit pixel was turned off (R107, R108). -/
def Display.xorByte (d : Display) (r : Fin 32) (c : Fin 8) (p : Byte) : Display × Bool :=
  (d.put r c (d.get r c ^^^ p), (d.get r c &&& p) != 0#8)

/-- The row of line `k` of a sprite at row `cy`; rows wrap from the bottom to the top (R107, R109). -/
def spriteRow (cy k : Nat) : Fin 32 := Fin.ofNat 32 (cy + k)

/-- One sprite line at byte column `b` and offset `o`: shifted right by the offset into the first byte, left by the
complement into the next byte of the same row, which wraps to its left edge (R107, R109). -/
def Display.drawLine (d : Display) (r : Fin 32) (b : Fin 8) (o : Nat) (line : Byte) : Display × Bool :=
  let one := d.xorByte r b (line >>> o)
  if o = 0 then one
  else
    let two := one.1.xorByte r (b + 1) (line <<< (8 - o))
    (two.1, one.2 || two.2)

/-- The first `n` lines of a sprite, drawn in order, and the OR of their collisions (R107, R108). -/
def Display.drawLines (d : Display) (cy : Nat) (b : Fin 8) (o : Nat) (line : Nat → Byte) : Nat → Display × Bool
  | 0 => (d, false)
  | n + 1 =>
    let before := Display.drawLines d cy b o line n
    let this := before.1.drawLine (spriteRow cy n) b o (line n)
    (this.1, before.2 || this.2)

/-- A sprite of `n` lines with its origin at column `cx` and row `cy`, both already reduced (R105, R107). -/
def Display.drawSprite (d : Display) (cx cy : Nat) (line : Nat → Byte) (n : Nat) : Display × Bool :=
  d.drawLines cy (Fin.ofNat 8 (cx / 8)) (cx % 8) line n

end Sys2Proof.Machine
end

