-- ==== Sys2Proof/Config.lean ====
section
/-!
DEFINITION. What the implementation fixes (00_scope.md R6) and the free values the manual leaves open (R7).
The font's place and bytes (FONT_BASE, FONT_DATA) are Config names too, declared in Machine/Font.lean.
-/

namespace Sys2Proof.Config

/-- MEM_SIZE: bytes of Memory (R6). -/
def memSize : Nat := 4096

/-- The last address an instruction can be fetched from: both of its bytes must lie in Memory (20_memory.md R41). -/
def lastFetch : Nat := 0xFFE

/-- LOAD_BASE: where the program image is copied, and the entry point (R6, 20_memory.md R47). -/
def loadBase : Nat := 0x200

/-- The bytes of Memory from LOAD_BASE up, the longest image (70_reset_and_hazards.md R146). -/
def maxImage : Nat := 0xE00

/-- FLAG_REG: the index of the flag register VF (R6). -/
def flagReg : Reg := 0xF#4

/-- The `n`-th byte the Random Byte Source gives (60_exceptions.md R135): a free value under no law. It has no body, so
a claim about CXNN holds for every sequence of draws (log 3). -/
opaque randomByte : Nat → Byte

end Sys2Proof.Config
end

