-- ==== Sys2Proof/Machine/Font.lean ====
section
/-!
DEFINITION. The font (10_state.md R31): the configuration values FONT_BASE, GLYPH_STRIDE and FONT_DATA of 00_scope.md R7,
at the defaults the spec decides (92_eei_decisions.md D3; log 4).
-/

namespace Sys2Proof.Config

/-- FONT_BASE: where glyph 0 starts (R7, R31). -/
def fontBase : Nat := 0x000

/-- GLYPH_STRIDE: bytes from one glyph to the next (R7, R31). -/
def glyphStride : Nat := 5

/-- The five rows of each glyph, top first (R31). -/
def glyph (digit : Nat) : List Byte :=
  match digit with
  | 0x0 => [0xF0#8, 0x90#8, 0x90#8, 0x90#8, 0xF0#8]
  | 0x1 => [0x20#8, 0x60#8, 0x20#8, 0x20#8, 0x70#8]
  | 0x2 => [0xF0#8, 0x10#8, 0xF0#8, 0x80#8, 0xF0#8]
  | 0x3 => [0xF0#8, 0x10#8, 0xF0#8, 0x10#8, 0xF0#8]
  | 0x4 => [0x90#8, 0x90#8, 0xF0#8, 0x10#8, 0x10#8]
  | 0x5 => [0xF0#8, 0x80#8, 0xF0#8, 0x10#8, 0xF0#8]
  | 0x6 => [0xF0#8, 0x80#8, 0xF0#8, 0x90#8, 0xF0#8]
  | 0x7 => [0xF0#8, 0x10#8, 0x20#8, 0x40#8, 0x40#8]
  | 0x8 => [0xF0#8, 0x90#8, 0xF0#8, 0x90#8, 0xF0#8]
  | 0x9 => [0xF0#8, 0x90#8, 0xF0#8, 0x10#8, 0xF0#8]
  | 0xA => [0xF0#8, 0x90#8, 0xF0#8, 0x90#8, 0x90#8]
  | 0xB => [0xE0#8, 0x90#8, 0xE0#8, 0x90#8, 0xE0#8]
  | 0xC => [0xF0#8, 0x80#8, 0x80#8, 0x80#8, 0xF0#8]
  | 0xD => [0xE0#8, 0x90#8, 0x90#8, 0x90#8, 0xE0#8]
  | 0xE => [0xF0#8, 0x80#8, 0xF0#8, 0x80#8, 0xF0#8]
  | 0xF => [0xF0#8, 0x80#8, 0xF0#8, 0x80#8, 0x80#8]
  | _ => []

/-- FONT_DATA: the glyphs of the sixteen digits in order, 80 bytes (R7, R31). -/
def fontData : List Byte := (List.range 16).flatMap glyph

end Sys2Proof.Config
end

