-- ==== Sys2Proof/Machine/Memory.lean ====
section
/-!
DEFINITION. Memory (10_state.md R15, 20_memory.md R37, R46): 4096 bytes, held as the list of the cells that differ from
what Memory holds after construction, in strictly rising order of address (log 5).
-/

namespace Sys2Proof.Machine

/-- The cells that differ from the reset contents. -/
abbrev Memory := List Host.Cell

/-- What an address that is not listed reads as: the contents of Memory after construction with an empty image, the font
at FONT_BASE and zero everywhere else (10_state.md R32, 20_memory.md R46). -/
def Memory.unlisted (a : Nat) : Byte :=
  if Config.fontBase ≤ a then (Config.fontData[a - Config.fontBase]?).getD 0#8 else 0#8

/-- The byte at an address. -/
def Memory.read : Memory → Nat → Byte
  | [], a => Memory.unlisted a
  | (k, b) :: rest, a => if k = a then b else Memory.read rest a

/-- The list without its cells at an address. -/
def Memory.erase (m : Memory) (a : Nat) : Memory := m.filter fun c => c.1 != a

/-- A cell put before the first cell of a higher address. -/
def Memory.insert : Memory → Nat → Byte → Memory
  | [], a, b => [(a, b)]
  | (k, c) :: rest, a, b => if a < k then (a, b) :: (k, c) :: rest else (k, c) :: Memory.insert rest a b

/-- One byte written: the cell is listed only if it differs from what an unlisted address reads as. -/
def Memory.write (m : Memory) (a : Nat) (b : Byte) : Memory :=
  if b = Memory.unlisted a then m.erase a else (m.erase a).insert a b

/-- The canonical form: addresses in Memory and strictly rising, no cell equal to the reset contents. -/
def Memory.wf : Memory → Bool
  | [] => true
  | (k, b) :: rest =>
    decide (k < Config.memSize) && decide (b ≠ Memory.unlisted k) && rest.all (fun c => decide (k < c.1))
      && Memory.wf rest

end Sys2Proof.Machine
end

