-- ==== Sys2Proof/Machine/State.lean ====
section
/-!
DEFINITION. The architectural state (10_state.md R14), the state of the host's interface, its reset value (R32), and the reasons a
step can stop.
-/

namespace Sys2Proof.Machine

/-- The run states (10_state.md R28). -/
inductive RunState where
  /-- Before construction completes. -/
  | loading
  /-- Normal execution. -/
  | running
  /-- Waiting for a key press. -/
  | blocked
  /-- Terminal. -/
  | halted
deriving DecidableEq, Repr

/-- One indivisible transaction of one agent (00_scope.md R8, 60_exceptions.md R136, R137), with its inputs. -/
inductive Event where
  /-- The core's `step()` (40_control.md R70). -/
  | core
  /-- The core's `doFrame(budget)` (60_exceptions.md R139). `window` lists, for each iteration at which the wall-clock
  window has not elapsed, how many timer ticks fall before it; the window elapses after the last (R140; log 11). -/
  | doFrame (budget : Nat) (window : List Nat)
  /-- The Timer Unit's `tick()` (R128). -/
  | tick
  /-- The host's `setKeyState(code, pressed)` (R133). -/
  | setKeyState (code : Nat) (pressed : Bool)
  /-- The host's `clearKeyState()` (R134). -/
  | clearKeyState
  /-- The host's `halt()` (R125). -/
  | halt
deriving DecidableEq, Repr

/-- The architectural state: the tuple of R14 and nothing else. The inputs of a transaction are no part of it (R36). -/
structure Arch where
  /-- M, Memory (R15). -/
  mem : Memory
  /-- V0..VF, the general registers (R16). -/
  v : Vector Byte 16
  /-- I, the address register (R23). -/
  i : Addr
  /-- PC, the address of the next instruction to fetch (R20). -/
  pc : PcVal
  /-- The call stack; the last element is the top (R22, 00_scope.md R11). -/
  stack : List PcVal
  /-- DT, the delay counter (R24). -/
  dt : Byte
  /-- ST, the sound counter (R25). -/
  st : Byte
  /-- Disp, the display buffer (R26). -/
  disp : Display
  /-- Key, the Input Latch (R27). -/
  key : Vector Bool 16
  /-- The run state (R28). -/
  run : RunState
  /-- The wait-for-key target (R29). -/
  pending : Option Reg
deriving DecidableEq, Repr

/-- What a step of the host's interface is given: the architectural state, and beside it the two carriers from which the
step takes its inputs, since that interface passes none. The step relation over `Arch`, which takes every input as an
argument (R36), is `Arch.step` of Machine/Relation.lean. -/
structure State extends Arch where
  /-- The model's own: how many bytes have been drawn from the Random Byte Source (log 3). -/
  draws : Nat
  /-- The model's own: which agent moves next, and with what inputs; when it is empty the core moves (log 1). -/
  agenda : List Event
deriving DecidableEq, Repr

/-- The state when construction with an empty image completes (R32, 70_reset_and_hazards.md R145). `draws` and `agenda`
are the model's own and start at values the model chose (DESIGN CHOICE, log 2). -/
def State.reset : State where
  mem := []
  v := Vector.replicate 16 0#8
  i := 0#12
  pc := BitVec.ofNat 13 Config.loadBase
  stack := []
  dt := 0#8
  st := 0#8
  disp := Display.clear
  key := Vector.replicate 16 false
  run := .running
  pending := none
  draws := 0
  agenda := []

/-- Why the machine stops with a fault. -/
inductive Fault where
  /-- A memory index out of its fixed valid range, the internal assertion of 60_exceptions.md R144. Raised by `coreStep`
  if a fetch that passed the bound check still named an address outside Memory; no state does (safe, log 12). -/
  | indexOutOfRange (address : Nat)
deriving DecidableEq, Repr

/-- Why the machine gives no meaning. -/
inductive Refusal where
  /-- An instruction without a meaning yet, by its mnemonic in spec/opcode_table.json: raised by `exec` alone (safe). -/
  | notModelled (mnemonic : String)
  /-- `setKeyState` with a code above 0xF, a breach of the host's duty that the spec refuses (60_exceptions.md R138,
  92_eei_decisions.md D25): raised by `setKeyState` (safe, log 10). -/
  | keyCodeOutOfRange (code : Nat)
  /-- `construct` with an image longer than 0xE00 bytes (70_reset_and_hazards.md R146, D6): raised by `construct`
  (safe, log 10). -/
  | imageTooLong (length : Nat)
  /-- `halt()` before construction completes, a breach of R138: raised by `hostHalt` (safe, log 9). -/
  | haltWhileLoading
  /-- An operation on an engine that is not constructed or is torn down (R138, 70_reset_and_hazards.md R149): raised by
  `Engine.apply` (safe, log 9). -/
  | noEngine
  /-- `construct` on an engine that lives (R138, R147): raised by `Engine.apply` (safe, log 9). -/
  | alreadyConstructed
deriving DecidableEq, Repr

end Sys2Proof.Machine
end

