-- ==== Sys2Proof/Machine/Ops.lean ====
section
/-!
DEFINITION. The named operations every meaning is written over: registers, memory, call stack, the bounded fetch, the
halt of an out-of-bounds fetch, and the skip. The hardware has no exception, trap entry or trap return (60_exceptions.md
R120, R126); `haltOutOfBounds` is what it does instead, shared by the step and by every skip (R121).
-/

namespace Sys2Proof.Machine

/-- V[r] (00_scope.md R11). -/
def State.reg (s : State) (r : Reg) : Byte := s.v[r.toNat]'r.isLt

/-- V[r] <- b. No register is hardwired (10_state.md R17). -/
def State.setReg (s : State) (r : Reg) (b : Byte) : State := { s with v := s.v.set r.toNat b r.isLt }

/-- MemRead(a, 1). -/
def State.readByte (s : State) (a : Addr) : Byte := s.mem.read a.toNat

/-- MemWrite(a, 1, b). -/
def State.writeByte (s : State) (a : Addr) (b : Byte) : State := { s with mem := s.mem.write a.toNat b }

/-- Key[k]. -/
def State.pressed (s : State) (k : Nibble) : Bool := s.key[k.toNat]'k.isLt

/-- Key[k] <- p. -/
def State.setKey (s : State) (k : Nibble) (p : Bool) : State := { s with key := s.key.set k.toNat p k.isLt }

/-- I <- a; I is twelve bits wide, so every write is taken mod 4096 (10_state.md R23). -/
def State.setI (s : State) (a : Addr) : State := { s with i := a }

/-- PC <- a. -/
def State.setPc (s : State) (a : PcVal) : State := { s with pc := a }

/-- DT <- b. -/
def State.setDt (s : State) (b : Byte) : State := { s with dt := b }

/-- ST <- b. -/
def State.setSt (s : State) (b : Byte) : State := { s with st := b }

/-- The whole display buffer written. -/
def State.setDisp (s : State) (d : Display) : State := { s with disp := d }

/-- pending <- x, run <- Blocked: the wait for a key begins (44_timers_input.md R116). -/
def State.beginWait (s : State) (x : Reg) : State := { s with pending := some x, run := .blocked }

/-- pending <- none, run <- Running: the wait ends (60_exceptions.md R133). -/
def State.endWait (s : State) : State := { s with pending := none, run := .running }

/-- run <- Halted, pending <- none: what the host's halt request does (R125). -/
def State.stop (s : State) : State := { s with run := .halted, pending := none }

/-- The agenda replaced (the model's own field, log 1). -/
def State.setAgenda (s : State) (l : List Event) : State := { s with agenda := l }

/-- push(v): append to the end of the call stack (10_state.md R22). -/
def State.push (s : State) (a : PcVal) : State := { s with stack := s.stack ++ [a] }

/-- pop(): remove the last element of the call stack (R22). -/
def State.pop (s : State) : State := { s with stack := s.stack.dropLast }

/-- RET's pop: PC <- the last element, which is removed; with an empty stack, no effect (40_control.md R74). -/
def State.popToPc (s : State) : State :=
  match s.stack.getLast? with
  | none => s
  | some a => s.pop.setPc a

/-- Whether both bytes of an instruction at PC lie in Memory (20_memory.md R41). -/
def State.canFetch (s : State) : Bool := decide (s.pc.toNat ≤ Config.lastFetch)

/-- PC <- PC + 2, the advance of a fetch (40_control.md R70, R72). -/
def State.advancePc (s : State) : State := { s with pc := s.pc + 2#13 }

/-- What an out-of-bounds fetch does: run <- Halted, and nothing else (40_control.md R70, R72; 60_exceptions.md R121). -/
def State.haltOutOfBounds (s : State) : State := { s with run := .halted }

/-- SkipNext() (R72): a second fetch, bounded as the first. The bytes read are discarded and reading has no side effect
(20_memory.md R45), so only the bound and the advance remain (log 17). -/
def State.skipNext (s : State) : State := if s.canFetch then s.advancePc else s.haltOutOfBounds

/-- The skip of an instruction whose condition is `c`. -/
def State.skipIf (s : State) (c : Bool) : State := if c then s.skipNext else s

/-- draw_byte(): the state after one fresh byte is taken from the Random Byte Source (60_exceptions.md R135). -/
def State.afterDraw (s : State) : State := { s with draws := s.draws + 1 }

/-- draw_byte(): the byte taken (R135; log 3). -/
def State.drawnByte (s : State) : Byte := Config.randomByte s.draws

end Sys2Proof.Machine
end

