-- ==== Sys2Proof/Machine/Flags.lean ====
section
/-!
DEFINITION. The results and flags of the flag-writing instructions (10_state.md R18): carry, no-borrow, shifted-out bit
and collision. Each gives the result byte and the byte that VF takes. Sums and differences are exact naturals and are
narrowed at the end, as 00_scope.md R10 has it.
-/

namespace Sys2Proof.Machine

/-- The result of a widened sum or difference: its low eight bits (41_alu.md R90, R91). -/
def lowByte (n : Nat) : Byte := BitVec.ofNat 8 (n &&& 0xFF)

/-- Bit 8 of a widened sum or difference, as VF takes it (R90, R91). -/
def bit8 (n : Nat) : Byte := BitVec.ofNat 8 ((n >>> 8) &&& 1)

/-- a + b and the carry, "the 9th bit of the widened sum" (R90). -/
def addWithCarry (a b : Byte) : Byte × Byte :=
  let sum := a.toNat + b.toNat
  (lowByte sum, bit8 sum)

/-- a - b with bit 8 of the minuend pre-set, and the no-borrow flag (R91, R93). -/
def subNoBorrow (a b : Byte) : Byte × Byte :=
  let difference := (a.toNat ||| 0x100) - b.toNat
  (lowByte difference, bit8 difference)

/-- b >> 1 and the bit shifted out (R92). -/
def shiftRightOut (b : Byte) : Byte × Byte := (b >>> 1, b &&& 1#8)

/-- (b << 1) & 0xFF and the bit shifted out (R94). -/
def shiftLeftOut (b : Byte) : Byte × Byte := (b <<< 1, (b >>> 7) &&& 1#8)

/-- VF of a draw: 1 if a lit pixel was turned off, else 0 (43_display.md R108). -/
def collisionFlag (hit : Bool) : Byte := if hit then 1#8 else 0#8

/-- V[X] <- result, then V[0xF] <- flag: the flag write is last (00_scope.md R12). -/
def State.setResultAndFlag (s : State) (x : Reg) (r : Byte × Byte) : State :=
  (s.setReg x r.1).setReg Config.flagReg r.2

end Sys2Proof.Machine
end

