-- ==== Sys2Proof/Machine/Alu.lean ====
section
/-!
DEFINITION. Families 6, 7, 8 and C: loads, arithmetic, logic and the random byte (41_alu.md). Operands are read before
any write and the flag is written last (00_scope.md R12).
-/

namespace Sys2Proof.Machine

/-- LD Vx, byte (R84). -/
def execLdImm (x : Reg) (nn : Byte) (s : State) : Host.Outcome State Fault Refusal := .next (s.setReg x nn)

/-- ADD Vx, byte: mod 256, no flag (R85). -/
def execAddImm (x : Reg) (nn : Byte) (s : State) : Host.Outcome State Fault Refusal :=
  .next (s.setReg x (s.reg x + nn))

/-- LD Vx, Vy (R86). -/
def execLdReg (x y : Reg) (s : State) : Host.Outcome State Fault Refusal := .next (s.setReg x (s.reg y))

/-- OR Vx, Vy; VF is not written (R87). -/
def execOr (x y : Reg) (s : State) : Host.Outcome State Fault Refusal := .next (s.setReg x (s.reg x ||| s.reg y))

/-- AND Vx, Vy; VF is not written (R88). -/
def execAnd (x y : Reg) (s : State) : Host.Outcome State Fault Refusal := .next (s.setReg x (s.reg x &&& s.reg y))

/-- XOR Vx, Vy; VF is not written (R89). -/
def execXor (x y : Reg) (s : State) : Host.Outcome State Fault Refusal := .next (s.setReg x (s.reg x ^^^ s.reg y))

/-- ADD Vx, Vy with carry (R90). -/
def execAddReg (x y : Reg) (s : State) : Host.Outcome State Fault Refusal :=
  .next (s.setResultAndFlag x (addWithCarry (s.reg x) (s.reg y)))

/-- SUB Vx, Vy: Vx minus Vy, no-borrow (R91). -/
def execSub (x y : Reg) (s : State) : Host.Outcome State Fault Refusal :=
  .next (s.setResultAndFlag x (subNoBorrow (s.reg x) (s.reg y)))

/-- SHR Vx, Vy: Vx = Vy >> 1 (R92). -/
def execShr (x y : Reg) (s : State) : Host.Outcome State Fault Refusal :=
  .next (s.setResultAndFlag x (shiftRightOut (s.reg y)))

/-- SUBN Vx, Vy: Vy minus Vx, no-borrow (R93). -/
def execSubn (x y : Reg) (s : State) : Host.Outcome State Fault Refusal :=
  .next (s.setResultAndFlag x (subNoBorrow (s.reg y) (s.reg x)))

/-- SHL Vx, Vy: Vx = Vy << 1 (R94). -/
def execShl (x y : Reg) (s : State) : Host.Outcome State Fault Refusal :=
  .next (s.setResultAndFlag x (shiftLeftOut (s.reg y)))

/-- Family 8 with an unrecognized N, no-op (R95). -/
def execNop8 (_x _y : Reg) (_n : Nibble) (s : State) : Host.Outcome State Fault Refusal := .next s

/-- V[X] <- draw_byte() & NN, the byte drawn being `draw` (R96). -/
def State.maskDraw (s : State) (x : Reg) (nn draw : Byte) : State := s.setReg x (draw &&& nn)

/-- RND Vx, byte, its byte an input (R36). -/
def execRndOn (draw : Byte) (x : Reg) (nn : Byte) (s : State) : Host.Outcome State Fault Refusal :=
  .next (s.maskDraw x nn draw)

/-- RND Vx, byte: a fresh byte AND the mask (R96). -/
def execRnd (x : Reg) (nn : Byte) (s : State) : Host.Outcome State Fault Refusal :=
  .next (s.afterDraw.maskDraw x nn s.drawnByte)

end Sys2Proof.Machine
end

