-- ==== Sys2Proof/Machine/Operands.lean ====
section
/-!
DEFINITION. The operand forms: jump targets, data addresses, key codes, glyph addresses, sprite origins and lines, and
the block and digit sequences of the memory instructions (30_encoding.md R63, R64; 42_index_memory.md R104).
-/

namespace Sys2Proof.Machine

/-- The target NNN of a jump or call, zero-extended (30_encoding.md R63). -/
def jumpTarget (nnn : Addr) : PcVal := nnn.setWidth 13

/-- The data address (I + k) mod 4096 (20_memory.md R39). -/
def State.dataAddr (s : State) (k : Nat) : Addr := s.i + BitVec.ofNat 12 k

/-- The key that a register names by its low nibble (44_timers_input.md R112). -/
def keyOf (b : Byte) : Nibble := b.setWidth 4

/-- The glyph address (FONT_BASE + GLYPH_STRIDE * (b & 0xF)) mod 4096 (42_index_memory.md R100). -/
def glyphAddr (b : Byte) : Addr :=
  BitVec.ofNat 12 (Config.fontBase + Config.glyphStride * (b &&& 0xF#8).toNat)

/-- cx = V[X] mod 64 (43_display.md R105). -/
def spriteColumn (b : Byte) : Nat := b.toNat % 64

/-- cy = V[Y] mod 32 (R105). -/
def spriteTop (b : Byte) : Nat := b.toNat % 32

/-- Line `k` of the sprite at I (R107). -/
def State.spriteLine (s : State) (k : Nat) : Byte := s.readByte (s.dataAddr k)

/-- The hundreds digit (42_index_memory.md R101). -/
def hundreds (b : Byte) : Byte := BitVec.ofNat 8 (b.toNat / 100)
/-- The tens digit (R101). -/
def tens (b : Byte) : Byte := BitVec.ofNat 8 (b.toNat / 10 % 10)
/-- The ones digit (R101). -/
def ones (b : Byte) : Byte := BitVec.ofNat 8 (b.toNat % 10)

/-- V0 to V(n-1) stored in order from I up (42_index_memory.md R102). -/
def State.storeBlock (s : State) : Nat → State
  | 0 => s
  | n + 1 => (State.storeBlock s n).writeByte (s.dataAddr n) (s.reg (BitVec.ofNat 4 n))

/-- V0 to V(n-1) loaded in order from I up (R103). -/
def State.loadBlock (s : State) : Nat → State
  | 0 => s
  | n + 1 => (State.loadBlock s n).setReg (BitVec.ofNat 4 n) (s.readByte (s.dataAddr n))

end Sys2Proof.Machine
end

