-- ==== Sys2Proof/Machine/Control.lean ====
section
/-!
DEFINITION. Families 0, 1, 2, 3, 4, 5, 9 and B: returns, jumps, calls, skips and the no-ops among them (40_control.md).
Every meaning runs after the fetch has advanced PC by 2 (R70; log 7).
-/

namespace Sys2Proof.Machine

/-- SYS addr, no-op (R73). -/
def execSys (_nnn : Addr) (s : State) : Host.Outcome State Fault Refusal := .next s

/-- RET: PC <- pop(), or no effect with an empty stack (R74). -/
def execRet (s : State) : Host.Outcome State Fault Refusal := .next s.popToPc

/-- JP addr: PC <- NNN (R75). -/
def execJp (nnn : Addr) (s : State) : Host.Outcome State Fault Refusal := .next (s.setPc (jumpTarget nnn))

/-- CALL addr: push(PC), PC <- NNN (R76). -/
def execCall (nnn : Addr) (s : State) : Host.Outcome State Fault Refusal :=
  .next ((s.push s.pc).setPc (jumpTarget nnn))

/-- JP V0, addr: PC <- NNN + V[0], not wrapped (R77). -/
def execJpV0 (nnn : Addr) (s : State) : Host.Outcome State Fault Refusal :=
  .next (s.setPc (jumpTarget nnn + (s.reg 0#4).setWidth 13))

/-- SE Vx, byte (R78). -/
def execSeImm (x : Reg) (nn : Byte) (s : State) : Host.Outcome State Fault Refusal :=
  .next (s.skipIf (s.reg x == nn))

/-- SNE Vx, byte (R79). -/
def execSneImm (x : Reg) (nn : Byte) (s : State) : Host.Outcome State Fault Refusal :=
  .next (s.skipIf (s.reg x != nn))

/-- SE Vx, Vy (R80). -/
def execSeReg (x y : Reg) (s : State) : Host.Outcome State Fault Refusal :=
  .next (s.skipIf (s.reg x == s.reg y))

/-- SNE Vx, Vy (R81). -/
def execSneReg (x y : Reg) (s : State) : Host.Outcome State Fault Refusal :=
  .next (s.skipIf (s.reg x != s.reg y))

/-- Family 5 with N nonzero, no-op (R82). -/
def execNop5 (_x _y : Reg) (_n : Nibble) (s : State) : Host.Outcome State Fault Refusal := .next s

/-- Family 9 with N nonzero, no-op (R82). -/
def execNop9 (_x _y : Reg) (_n : Nibble) (s : State) : Host.Outcome State Fault Refusal := .next s

end Sys2Proof.Machine
end

