-- ==== Sys2Proof/Machine/Draw.lean ====
section
/-!
DEFINITION. The display instructions 00E0 and DXYN (43_display.md).
-/

namespace Sys2Proof.Machine

/-- CLS: every byte of the buffer becomes 0; VF is not written (R106). -/
def execCls (s : State) : Host.Outcome State Fault Refusal := .next (s.setDisp Display.clear)

/-- What DXYN composites: the sprite of N lines at I drawn at (V[X] mod 64, V[Y] mod 32), coordinates read before VF is
written (R105, R107). -/
def State.composite (s : State) (x y : Reg) (n : Nibble) : Display × Bool :=
  s.disp.drawSprite (spriteColumn (s.reg x)) (spriteTop (s.reg y)) s.spriteLine n.toNat

/-- DRW Vx, Vy, nibble: the buffer composited, then VF <- the collision (R107, R108). -/
def execDrw (x y : Reg) (n : Nibble) (s : State) : Host.Outcome State Fault Refusal :=
  .next ((s.setDisp (s.composite x y n).1).setReg Config.flagReg (collisionFlag (s.composite x y n).2))

end Sys2Proof.Machine
end

