-- ==== Sys2Proof/Machine/Index.lean ====
section
/-!
DEFINITION. Family A and FX1E, FX29, FX33, FX55, FX65: the address register and the memory instructions
(42_index_memory.md). I is twelve bits wide, so every write of it is taken modulo 4096 (10_state.md R23).
-/

namespace Sys2Proof.Machine

/-- LD I, addr (R98). -/
def execLdI (nnn : Addr) (s : State) : Host.Outcome State Fault Refusal := .next (s.setI nnn)

/-- ADD I, Vx: mod 4096, VF not written (R99). -/
def execAddI (x : Reg) (s : State) : Host.Outcome State Fault Refusal :=
  .next (s.setI (s.i + (s.reg x).setWidth 12))

/-- LD F, Vx: I at the glyph of the low nibble (R100). -/
def execLdF (x : Reg) (s : State) : Host.Outcome State Fault Refusal := .next (s.setI (glyphAddr (s.reg x)))

/-- LD B, Vx: hundreds, tens and ones at I, I+1, I+2; I is not changed (R101). -/
def execBcd (x : Reg) (s : State) : Host.Outcome State Fault Refusal :=
  .next (((s.writeByte (s.dataAddr 0) (hundreds (s.reg x))).writeByte (s.dataAddr 1) (tens (s.reg x))).writeByte
    (s.dataAddr 2) (ones (s.reg x)))

/-- LD [I], Vx: V0..VX stored from I up, then I <- I + X + 1 (R102). -/
def execStore (x : Reg) (s : State) : Host.Outcome State Fault Refusal :=
  .next ((s.storeBlock (x.toNat + 1)).setI (s.dataAddr (x.toNat + 1)))

/-- LD Vx, [I]: V0..VX loaded from I up, then I <- I + X + 1 (R103). -/
def execLoad (x : Reg) (s : State) : Host.Outcome State Fault Refusal :=
  .next ((s.loadBlock (x.toNat + 1)).setI (s.dataAddr (x.toNat + 1)))

end Sys2Proof.Machine
end

