-- ==== Sys2Proof/Machine/KeysTimers.lean ====
section
/-!
DEFINITION. Families E and F: key skips, timer access, the key wait and the no-ops among them (44_timers_input.md).
-/

namespace Sys2Proof.Machine

/-- SKP Vx (R112). -/
def execSkp (x : Reg) (s : State) : Host.Outcome State Fault Refusal :=
  .next (s.skipIf (s.pressed (keyOf (s.reg x))))

/-- SKNP Vx (R113). -/
def execSknp (x : Reg) (s : State) : Host.Outcome State Fault Refusal :=
  .next (s.skipIf (!s.pressed (keyOf (s.reg x))))

/-- Family E with an unrecognized selector, no-op (R114). -/
def execNopE (_x : Reg) (_nn : Byte) (s : State) : Host.Outcome State Fault Refusal := .next s

/-- LD Vx, DT (R115). -/
def execLdVxDt (x : Reg) (s : State) : Host.Outcome State Fault Refusal := .next (s.setReg x s.dt)

/-- LD Vx, K: pending <- X, run <- Blocked (R116). -/
def execLdVxK (x : Reg) (s : State) : Host.Outcome State Fault Refusal :=
  .next (s.beginWait x)

/-- LD DT, Vx (R117). -/
def execLdDt (x : Reg) (s : State) : Host.Outcome State Fault Refusal := .next (s.setDt (s.reg x))

/-- LD ST, Vx (R118). -/
def execLdSt (x : Reg) (s : State) : Host.Outcome State Fault Refusal := .next (s.setSt (s.reg x))

/-- Family F with an unrecognized selector, no-op (R119). -/
def execNopF (_x : Reg) (_nn : Byte) (s : State) : Host.Outcome State Fault Refusal := .next s

end Sys2Proof.Machine
end

