-- ==== Sys2Proof/Machine/Fetch.lean ====
section
/-!
DEFINITION. The core's `step()` (40_control.md R70): run-state check, fetch bound, fetch, advance, execute, in that order
(60_exceptions.md R123).
-/

namespace Sys2Proof.Machine

/-- The byte at a natural address, or none where there is no such address (20_memory.md R37). -/
def State.byteAt (s : State) (a : Nat) : Option Byte :=
  if a < Config.memSize then some (s.mem.read a) else none

/-- The word at PC: the byte at PC is its high half (20_memory.md R40). -/
def State.fetchWord (s : State) : Option Word :=
  match s.byteAt s.pc.toNat, s.byteAt (s.pc.toNat + 1) with
  | some first, some second => some (wordOfBytes first second)
  | _, _ => none

/-- step() of the core (R70), execute(w) being `run`. The fault is the internal assertion of 60_exceptions.md R144: the
bound check comes before the fetch, so no state reaches it (log 12). -/
def coreStepBy (run : Instr → State → Host.Outcome State Fault Refusal) (s : State) : Host.Outcome State Fault Refusal :=
  if s.run ≠ .running then .next s
  else if s.canFetch = false then .next s.haltOutOfBounds
  else
    match s.fetchWord with
    | none => .fault (.indexOutOfRange s.pc.toNat)
    | some w => run (decodeWord w) s.advancePc

/-- step() of the core, a random byte taken by the draw count (R70; log 3). -/
def coreStep (s : State) : Host.Outcome State Fault Refusal := coreStepBy exec s

end Sys2Proof.Machine
end

