-- ==== Sys2Proof/Machine/Timer.lean ====
section
/-!
DEFINITION. The Timer Unit (60_exceptions.md R128 to R132): an agent of its own that writes only DT and ST.
-/

namespace Sys2Proof.Machine

/-- One counter's tick: down by one unless it is 0; counters never wrap below 0 (R128). -/
def countDown (c : Byte) : Byte := if c = 0#8 then c else c - 1#8

/-- tick(): both counters, each on its own (R128). -/
def State.tick (s : State) : State := (s.setDt (countDown s.dt)).setSt (countDown s.st)

/-- `n` ticks in a row: any number may fall between two transactions of the other agents (R129). -/
def State.ticks (s : State) : Nat → State
  | 0 => s
  | n + 1 => (State.ticks s n).tick

end Sys2Proof.Machine
end

