-- ==== Sys2Proof/Machine/Frame.lean ====
section
/-!
DEFINITION. The core's `doFrame(budget)` (60_exceptions.md R139, R140).
-/

namespace Sys2Proof.Machine

/-- The loop of doFrame with `count` steps done. `window` holds the draws of `window_elapsed()`: one entry for each further
iteration at which it answers false, with what `one` needs for that iteration's step; past the last entry it answers true,
as R140 says it does after finitely many iterations (log 11). The checks stand in R139's order. -/
def frameLoopBy {α : Type} (one : α → State → Host.Outcome State Fault Refusal) (budget : Nat) :
    List α → Nat → State → Host.Outcome (State × Nat) Fault Refusal
  | window, count, s =>
    if s.run ≠ .running then .next (s, count)
    else if budget ≠ 0 ∧ count = budget then .next (s, count)
    else
      match window with
      | [] => .next (s, count)
      | entry :: later =>
        match one entry s with
        | .next t => frameLoopBy one budget later (count + 1) t
        | .fault r => .fault r
        | .refused r => .refused r

/-- One iteration's step, after the timer ticks that fall before it (60_exceptions.md R129). -/
def tickedStep (ticksBefore : Nat) (s : State) : Host.Outcome State Fault Refusal := coreStep (s.ticks ticksBefore)

/-- The loop of doFrame, an entry of the window being the number of ticks before its step. -/
def frameLoop (budget : Nat) (window : List Nat) (count : Nat) (s : State) :
    Host.Outcome (State × Nat) Fault Refusal :=
  frameLoopBy tickedStep budget window count s

/-- doFrame(budget): the state after the burst and the count it returns. -/
def doFrame (budget : Nat) (window : List Nat) (s : State) : Host.Outcome (State × Nat) Fault Refusal :=
  frameLoop budget window 0 s

end Sys2Proof.Machine
end

