-- ==== Sys2Proof/Machine/Host.lean ====
section
/-!
DEFINITION. The host's operations on a living engine (60_exceptions.md R125, R133, R134, R137), its readers, and the
effect of one event of any agent.
-/

namespace Sys2Proof.Machine

/-- The part of setKeyState that a press plays in a wait: V[pending] <- code, pending <- none, run <- Running (R133). -/
def State.resolveWait (s : State) (code : Nibble) : State :=
  match s.run, s.pending with
  | .blocked, some x => (s.setReg x (code.setWidth 8)).endWait
  | _, _ => s

/-- setKeyState(code, pressed): a press resolves an outstanding wait; the latch bit is always written (R133). A code
above 0xF is refused (R138, 92_eei_decisions.md D25). -/
def setKeyState (code : Nat) (pressed : Bool) (s : State) : Host.Outcome State Fault Refusal :=
  if 16 ≤ code then .refused (.keyCodeOutOfRange code)
  else
    let k := BitVec.ofNat 4 code
    .next ((if pressed then s.resolveWait k else s).setKey k pressed)

/-- clearKeyState(): every latch bit released; pending and run are not touched (R134). -/
def State.clearKeys (s : State) : State := { s with key := Vector.replicate 16 false }

/-- halt(): run <- Halted and pending <- none from Running or Blocked; nothing in Halted (R125). Before construction
completes no host operation may be called (R138; log 9). -/
def hostHalt (s : State) : Host.Outcome State Fault Refusal :=
  match s.run with
  | .running => .next s.stop
  | .blocked => .next s.stop
  | .halted => .next s
  | .loading => .refused .haltWhileLoading

/-- The state part of an answer of doFrame; the count goes to the caller (R139; log 18). -/
def dropCount (o : Host.Outcome (State × Nat) Fault Refusal) : Host.Outcome State Fault Refusal :=
  match o with
  | .next (t, _) => .next t
  | .fault r => .fault r
  | .refused r => .refused r

/-- One event of one agent (60_exceptions.md R136, R137). -/
def applyEvent (e : Event) (s : State) : Host.Outcome State Fault Refusal :=
  match e with
  | .core => coreStep s
  | .doFrame budget window => dropCount (doFrame budget window s)
  | .tick => .next s.tick
  | .setKeyState code pressed => setKeyState code pressed s
  | .clearKeyState => .next s.clearKeys
  | .halt => hostHalt s

/-! ## Readers (R137): they change nothing -/

/-- display(): the 256 bytes of the buffer, row-major (10_state.md R26). -/
def State.display (s : State) : List Byte := s.disp.bytes

/-- soundActive(): ST != 0 (10_state.md R35). -/
def State.soundActive (s : State) : Bool := s.st != 0#8

/-- timers(): (DT, ST) (R137). -/
def State.timers (s : State) : Byte × Byte := (s.dt, s.st)

/-- runState() (R137). -/
def State.runState (s : State) : RunState := s.run

end Sys2Proof.Machine
end

