-- ==== Sys2Proof/Machine/Step.lean ====
section
/-!
DEFINITION. One step of the whole machine: the agent that the agenda names moves, by one indivisible transaction
(00_scope.md R8, 60_exceptions.md R123, R136); with an empty agenda the core moves (log 1).
-/

namespace Sys2Proof.Machine

/-- One step. -/
def step (s : State) : Host.Outcome State Fault Refusal :=
  match s.agenda with
  | [] => coreStep s
  | e :: rest => applyEvent e (s.setAgenda rest)

/-- `s` with the word of an opcode-table row stored at PC, where the next fetch reads, and the core moving next. Where the
core could not fetch (PC past 0xFFE, or not Running) PC is taken to LOAD_BASE and the core is set Running (log 8). -/
def State.withFetchWord (s : State) (nbits w : Nat) : State :=
  let pc := if s.canFetch then s.pc else BitVec.ofNat 13 Config.loadBase
  { s with
    pc := pc
    run := .running
    pending := none
    agenda := .core :: s.agenda
    mem := (s.mem.write pc.toNat (firstByte (tableWord nbits w))).write (pc.toNat + 1) (secondByte (tableWord nbits w)) }

end Sys2Proof.Machine
end

