-- ==== Sys2Proof/Machine/Lifetime.lean ====
section
/-!
DEFINITION. The life of an engine: construction (70_reset_and_hazards.md R145, R146), the operations on it (60_exceptions.md
R137, R138) and teardown (R149).
-/

namespace Sys2Proof.Machine

/-- The state at the start of construction: every component at its value in 10_state.md R32, run = Loading (R145). The
font lies in Memory already, since an address that is not listed reads as its reset contents (log 5). -/
def State.loading : State := { State.reset with run := .loading }

/-- M[LOAD_BASE + k] <- image[k], from offset `k` on (R145). -/
def State.copyImage (s : State) : List Byte → Nat → State
  | [], _ => s
  | b :: rest, k =>
    State.copyImage { s with mem := s.mem.write (Config.loadBase + k) b } rest (k + 1)

/-- Construction completes: run <- Running (60_exceptions.md R124). -/
def State.finishConstruction (s : State) : State := { s with run := .running }

/-- construct(image): an image of at most 0xE00 bytes is copied verbatim; a longer one is refused (R145, R146). -/
def construct (image : List Byte) : Host.Outcome State Fault Refusal :=
  if Config.maxImage < image.length then .refused (.imageTooLong image.length)
  else .next (State.loading.copyImage image 0).finishConstruction

/-- An engine: not there (before `construct`, after `teardown`), or living with its state (R145, R149). -/
inductive Engine where
  /-- No engine; no operation but `construct` is defined on it (R149). -/
  | absent
  /-- A living engine. -/
  | live (s : State)
deriving DecidableEq, Repr

/-- The operations on an engine over its life (R137). -/
inductive LifeOp where
  /-- construct(image). -/
  | construct (image : List Byte)
  /-- An event of one of the agents. -/
  | event (e : Event)
  /-- teardown(): the Timer Unit stops and the state is destroyed. -/
  | teardown
deriving DecidableEq, Repr

/-- One operation on an engine: `construct` comes first and once, `teardown` last and once (R138, R147, R149). -/
def Engine.apply (op : LifeOp) (g : Engine) : Host.Outcome Engine Fault Refusal :=
  match g, op with
  | .absent, .construct image =>
    match construct image with
    | .next s => .next (.live s)
    | .fault r => .fault r
    | .refused r => .refused r
  | .absent, .event _ => .refused .noEngine
  | .absent, .teardown => .refused .noEngine
  | .live _, .construct _ => .refused .alreadyConstructed
  | .live s, .event e =>
    match applyEvent e s with
    | .next t => .next (.live t)
    | .fault r => .fault r
    | .refused r => .refused r
  | .live _, .teardown => .next .absent

end Sys2Proof.Machine
end

