-- ==== Sys2Proof/Machine/Relation.lean ====
section
/-!
DEFINITION. The step relation with its inputs (10_state.md R36): over the tuple of R14 alone, with the random byte, the
budget, the window answers and the agent that moves as arguments. It shares every meaning with `step`, which takes the same
inputs from the carriers of State because the host's interface passes it none (log 1, log 3).
-/

namespace Sys2Proof.Machine

/-- The inputs of one transaction: the agent that moves, and what R36 says it is given. A tick schedule is a sequence of
these (60_exceptions.md R129); the program image is the argument of `construct`. -/
inductive Input where
  /-- The core's `step()`; `draw` is the byte that draw_byte() gives if the instruction takes one (R135). -/
  | core (draw : Byte)
  /-- The core's `doFrame(budget)`; one entry for each iteration at which the window has not elapsed (R140): the ticks
  before its step, and the byte that draw_byte() gives in it. -/
  | doFrame (budget : Nat) (window : List (Nat × Byte))
  /-- The Timer Unit's `tick()`. -/
  | tick
  /-- The host's `setKeyState(code, pressed)`. -/
  | setKeyState (code : Nat) (pressed : Bool)
  /-- The host's `clearKeyState()`. -/
  | clearKeyState
  /-- The host's `halt()`. -/
  | halt
deriving DecidableEq, Repr

/-- The move an input stands for, without its random bytes. -/
def Input.event : Input → Event
  | .core _ => .core
  | .doFrame budget window => .doFrame budget (window.map Prod.fst)
  | .tick => .tick
  | .setKeyState code pressed => .setKeyState code pressed
  | .clearKeyState => .clearKeyState
  | .halt => .halt

/-- execute(w) with the random byte as an input; CXNN alone takes one (R36, R96). -/
def execOn (draw : Byte) (i : Instr) (s : State) : Host.Outcome State Fault Refusal :=
  match i with
  | .rnd x nn => execRndOn draw x nn s
  | _ => exec i s

/-- step() of the core with the random byte as an input (R70). -/
def coreStepOn (draw : Byte) (s : State) : Host.Outcome State Fault Refusal := coreStepBy (execOn draw) s

/-- One iteration's step in a burst, after its ticks and with its random byte (60_exceptions.md R129, R139). -/
def tickedStepOn (entry : Nat × Byte) (s : State) : Host.Outcome State Fault Refusal :=
  coreStepOn entry.2 (s.ticks entry.1)

/-- One transaction under its inputs; neither carrier of the state is read. -/
def applyInput (input : Input) (s : State) : Host.Outcome State Fault Refusal :=
  match input with
  | .core draw => coreStepOn draw s
  | .doFrame budget window => dropCount (frameLoopBy tickedStepOn budget window 0 s)
  | .tick => .next s.tick
  | .setKeyState code pressed => setKeyState code pressed s
  | .clearKeyState => .next s.clearKeys
  | .halt => hostHalt s

/-- An architectural state with its carriers empty. -/
def Arch.bare (a : Arch) : State := { toArch := a, draws := 0, agenda := [] }

/-- The architectural part of an answer. -/
def archOf (o : Host.Outcome State Fault Refusal) : Host.Outcome Arch Fault Refusal :=
  match o with
  | .next t => .next t.toArch
  | .fault r => .fault r
  | .refused r => .refused r

/-- The step relation: what one transaction under its inputs makes of the tuple of R14 (R36). -/
def Arch.step (input : Input) (a : Arch) : Host.Outcome Arch Fault Refusal := archOf (applyInput input a.bare)

end Sys2Proof.Machine
end

