-- ==== Sys2Proof/Safety.lean ====
section
/-!
DEFINITION. The terms claims use: which parts of the state two states share, what a legal state is, when a run has ended
(70_reset_and_hazards.md R158), and runs under a schedule of events (60_exceptions.md R129).
-/

namespace Sys2Proof.Machine

/-- The parts of the state a frame speaks of. -/
inductive Part where
  | mem | v | i | pc | stack | dt | st | disp | key | run | pending | draws | agenda
deriving DecidableEq, Repr

/-- Two states agree on a part: memory byte by byte, registers, display bytes and latch bits one by one. -/
def Part.same (s t : State) : Part → Prop
  | .mem => ∀ a : Addr, t.readByte a = s.readByte a
  | .v => ∀ r : Reg, t.reg r = s.reg r
  | .i => t.i = s.i
  | .pc => t.pc = s.pc
  | .stack => t.stack = s.stack
  | .dt => t.dt = s.dt
  | .st => t.st = s.st
  | .disp => ∀ (r : Fin 32) (c : Fin 8), t.disp.get r c = s.disp.get r c
  | .key => ∀ k : Nibble, t.pressed k = s.pressed k
  | .run => t.run = s.run
  | .pending => t.pending = s.pending
  | .draws => t.draws = s.draws
  | .agenda => t.agenda = s.agenda

/-- The frame: `t` agrees with `s` on every part but those listed. -/
def KeepsAllBut (parts : List Part) (s t : State) : Prop := ∀ p : Part, p ∉ parts → Part.same s t p

/-- The core moves next: nothing is on the agenda before it. -/
def CoreMovesNext (s : State) : Prop := s.agenda = [] ∨ s.agenda.head? = some .core

/-- The move that comes next (log 1). -/
def State.nextEvent (s : State) : Event := s.agenda.headD .core

/-- `s` once the agenda's first entry is taken. -/
def State.popAgenda (s : State) : State := s.setAgenda s.agenda.tail

/-- A legal state: memory in canonical form, PC in its legal range (10_state.md R20), every saved return location one a
CALL can have pushed (40_control.md R76), a pending target exactly while Blocked (10_state.md R29), and counters at 0
during Loading (60_exceptions.md R131). -/
structure Legal (s : State) : Prop where
  memoryCanonical : s.mem.wf = true
  pcInRange : s.pc.toNat ≤ 0x10FE
  returnsInRange : ∀ a ∈ s.stack, a.toNat ≤ 0x1000
  pendingIffBlocked : s.pending ≠ none ↔ s.run = .blocked
  loadingCounters : s.run = .loading → s.dt = 0#8 ∧ s.st = 0#8

/-- ended(s): the engine is Halted (R158). -/
def Ended (s : State) : Prop := s.run = .halted

/-- parked(s): Running, and the word at PC is the jump to itself (R158). -/
def Parked (s : State) : Prop :=
  s.run = .running ∧ s.pc.toNat ≤ 0xFFE ∧
    s.fetchWord = some (0x1000#16 ||| s.pc.setWidth 16)

/-- final(s) (R158). -/
def Final (s : State) : Prop := Ended s ∨ Parked s

/-- The run of `n` events of an infinite schedule, stopping at a fault or refusal (R129). -/
def runSchedule (schedule : Nat → Event) (s : State) : Nat → Host.Outcome State Fault Refusal
  | 0 => .next s
  | n + 1 =>
    match runSchedule schedule s n with
    | .next t => applyEvent (schedule n) t
    | .fault r => .fault r
    | .refused r => .refused r

/-- How many timer ticks occur in an event at `s`: the Timer Unit's own one, or in a burst those that fall before the steps
it makes (R129, R139). -/
def ticksIn (e : Event) (s : State) : Nat :=
  match e with
  | .tick => 1
  | .doFrame budget window =>
    match doFrame budget window s with
    | .next (_, count) => (window.take count).sum
    | .fault _ => 0
    | .refused _ => 0
  | .core => 0
  | .setKeyState _ _ => 0
  | .clearKeyState => 0
  | .halt => 0

/-- How many timer ticks occur in the first `n` events of the run of a schedule from `s`; none once the run has stopped. -/
def ticksInRun (schedule : Nat → Event) (s : State) : Nat → Nat
  | 0 => 0
  | n + 1 =>
    ticksInRun schedule s n +
      match runSchedule schedule s n with
      | .next t => ticksIn (schedule n) t
      | .fault _ => 0
      | .refused _ => 0

/-- Fairness (R129): in the run of the schedule from `s` infinitely many ticks occur, be they events of their own or ticks
inside bursts. A run that stops at a fault or refusal is not infinite, and is not fair. -/
def FairRun (schedule : Nat → Event) (s : State) : Prop := ∀ k, ∃ n, k ≤ ticksInRun schedule s n

/-! ## What the spec's tables say of each instruction -/

/-- The parts an instruction may write, from the access table (10_state.md R33). A skip may also halt (40_control.md R72),
and CXNN advances the model's own draw count. -/
def mayWrite : Instr → List Part
  | .cls => [.disp]
  | .ret => [.pc, .stack]
  | .sys _ => []
  | .jp _ => [.pc]
  | .call _ => [.pc, .stack]
  | .seImm _ _ => [.pc, .run]
  | .sneImm _ _ => [.pc, .run]
  | .seReg _ _ => [.pc, .run]
  | .nop5 _ _ _ => []
  | .ldImm _ _ => [.v]
  | .addImm _ _ => [.v]
  | .ldReg _ _ => [.v]
  | .orReg _ _ => [.v]
  | .andReg _ _ => [.v]
  | .xorReg _ _ => [.v]
  | .addReg _ _ => [.v]
  | .sub _ _ => [.v]
  | .shr _ _ => [.v]
  | .subn _ _ => [.v]
  | .shl _ _ => [.v]
  | .nop8 _ _ _ => []
  | .sneReg _ _ => [.pc, .run]
  | .nop9 _ _ _ => []
  | .ldI _ => [.i]
  | .jpV0 _ => [.pc]
  | .rnd _ _ => [.v, .draws]
  | .drw _ _ _ => [.disp, .v]
  | .skp _ => [.pc, .run]
  | .sknp _ => [.pc, .run]
  | .nopE _ _ => []
  | .ldVxDt _ => [.v]
  | .ldVxK _ => [.run, .pending]
  | .ldDt _ => [.dt]
  | .ldSt _ => [.st]
  | .addI _ => [.i]
  | .ldF _ => [.i]
  | .bcd _ => [.mem]
  | .store _ => [.mem, .i]
  | .load _ => [.v, .i]
  | .nopF _ _ => []

/-- The registers an instruction may write: its explicit destinations, and VF for the six instructions that write it as a
side effect (10_state.md R18). -/
def mayWriteReg : Instr → Reg → Prop
  | .ldImm x _, r => r = x
  | .addImm x _, r => r = x
  | .ldReg x _, r => r = x
  | .orReg x _, r => r = x
  | .andReg x _, r => r = x
  | .xorReg x _, r => r = x
  | .addReg x _, r => r = x ∨ r = 0xF#4
  | .sub x _, r => r = x ∨ r = 0xF#4
  | .shr x _, r => r = x ∨ r = 0xF#4
  | .subn x _, r => r = x ∨ r = 0xF#4
  | .shl x _, r => r = x ∨ r = 0xF#4
  | .rnd x _, r => r = x
  | .drw _ _ _, r => r = 0xF#4
  | .ldVxDt x, r => r = x
  | .load x, r => r.toNat ≤ x.toNat
  | .cls, _ => False
  | .ret, _ => False
  | .sys _, _ => False
  | .jp _, _ => False
  | .call _, _ => False
  | .seImm _ _, _ => False
  | .sneImm _ _, _ => False
  | .seReg _ _, _ => False
  | .nop5 _ _ _, _ => False
  | .nop8 _ _ _, _ => False
  | .sneReg _ _, _ => False
  | .nop9 _ _ _, _ => False
  | .ldI _, _ => False
  | .jpV0 _, _ => False
  | .skp _, _ => False
  | .sknp _, _ => False
  | .nopE _ _, _ => False
  | .ldVxK _, _ => False
  | .ldDt _, _ => False
  | .ldSt _, _ => False
  | .addI _, _ => False
  | .ldF _, _ => False
  | .bcd _, _ => False
  | .store _, _ => False
  | .nopF _ _, _ => False

/-- The words of the no-op space, family by family (30_encoding.md R66). -/
def Unrecognized (w : Word) : Prop :=
  (fieldFamily w = 0x0#4 ∧ w ≠ 0x00E0#16 ∧ w ≠ 0x00EE#16) ∨
  (fieldFamily w = 0x5#4 ∧ fieldN w ≠ 0x0#4) ∨
  (fieldFamily w = 0x8#4 ∧ fieldN w ∈ [0x8#4, 0x9#4, 0xA#4, 0xB#4, 0xC#4, 0xD#4, 0xF#4]) ∨
  (fieldFamily w = 0x9#4 ∧ fieldN w ≠ 0x0#4) ∨
  (fieldFamily w = 0xE#4 ∧ fieldNN w ≠ 0x9E#8 ∧ fieldNN w ≠ 0xA1#8) ∨
  (fieldFamily w = 0xF#4 ∧
    fieldNN w ∉ [0x07#8, 0x0A#8, 0x15#8, 0x18#8, 0x1E#8, 0x29#8, 0x33#8, 0x55#8, 0x65#8])

/-- What a taken skip does (40_control.md R72): PC moves on by two where the second fetch is in bounds, and the engine
halts where it is not. Where PC is left by the halt is a separate statement (92_eei_decisions.md D20). -/
def Skips (s t : State) : Prop :=
  (s.pc.toNat ≤ 0xFFE → t.pc.toNat = s.pc.toNat + 2 ∧ t.run = s.run) ∧
  (0xFFE < s.pc.toNat → t.run = .halted) ∧
  KeepsAllBut [.pc, .run] s t

/-- What the byte `b` at address `a` must be once an instruction has stored `stored 0`, `stored 1`, ... at the `n` addresses
from I up (20_memory.md R39, R45): the byte stored there, or the byte that was there. -/
def StoredOrKept (s : State) (n : Nat) (stored : Nat → Byte) (a : Nat) (b : Byte) : Prop :=
  (∀ k < n, s.i + BitVec.ofNat 12 k = BitVec.ofNat 12 a → b = stored k) ∧
  ((∀ k < n, s.i + BitVec.ofNat 12 k ≠ BitVec.ofNat 12 a) → b = s.mem.read a)

/-- Whether the sprite that DXYN draws lights pixel (px, py): the pixel lies in the 8 by N box at (V[X] mod 64, V[Y] mod
32), both directions taken around the edges, and its bit of the sprite line is set (43_display.md R105, R107, R109). -/
def State.spriteLit (s : State) (x y : Reg) (n : Nibble) (px : Fin 64) (py : Fin 32) : Bool :=
  let dx := (px.val + 64 - (s.reg x).toNat % 64) % 64
  let dy := (py.val + 32 - (s.reg y).toNat % 32) % 32
  decide (dx < 8) && decide (dy < n.toNat) && (s.readByte (s.i + BitVec.ofNat 12 dy)).getLsbD (7 - dx)

end Sys2Proof.Machine
end

