-- ==== Sys2Proof/Certificates/Slice0/Obligations.lean ====
section
/-!
DEFINITION. The statements for the provers: the spec's numbered rules as claims about the model. Each docstring names the
rule it formalises, and the spec's decision or the log entry where a clause rests on one.
-/

open Sys2Proof Sys2Proof.Machine

/-! ## Encoding -/

/-- R57, R61, R62: decoding the bytes of an encoded well-formed instruction gives it back, and leaves the bytes after it.
The opcode numbers are the spec's own (93_implementation_defined.md GK2). -/
def Obligations.DecodeEncodeRoundTrip : Prop :=
  ∀ (i : Instr) (rest : List Byte), i.wf = true → decode (encodeBytes i ++ rest) = .ok (i, rest)

/-- R62, "Every 16-bit word matches exactly one row" (marked derived in the spec): every word decodes to a well-formed
instruction whose own word it is. -/
def Obligations.EveryWordIsOneInstruction : Prop :=
  ∀ w : Word, (decodeWord w).wf = true ∧ encode (decodeWord w) = w

/-- R62: one word for each of the forty rows, written out bit by bit from the row's pattern, decodes to what the row stands
for (the opcode numbers are the spec's GK2). -/
def Obligations.SampleWordsDecode : Prop :=
  decodeWord 0b0000000011100000#16 = .cls ∧
  decodeWord 0b0000000011101110#16 = .ret ∧
  decodeWord 0b0000000100100011#16 = .sys 0x123#12 ∧
  decodeWord 0b0001101010111100#16 = .jp 0xABC#12 ∧
  decodeWord 0b0010001100000000#16 = .call 0x300#12 ∧
  decodeWord 0b0011001101000010#16 = .seImm 0x3#4 0x42#8 ∧
  decodeWord 0b0100001101000001#16 = .sneImm 0x3#4 0x41#8 ∧
  decodeWord 0b0101000100100000#16 = .seReg 0x1#4 0x2#4 ∧
  decodeWord 0b0101000100100001#16 = .nop5 0x1#4 0x2#4 0x1#4 ∧
  decodeWord 0b0110101000101011#16 = .ldImm 0xA#4 0x2B#8 ∧
  decodeWord 0b0111101000000001#16 = .addImm 0xA#4 0x01#8 ∧
  decodeWord 0b1000000100100000#16 = .ldReg 0x1#4 0x2#4 ∧
  decodeWord 0b1000000100100001#16 = .orReg 0x1#4 0x2#4 ∧
  decodeWord 0b1000000100100010#16 = .andReg 0x1#4 0x2#4 ∧
  decodeWord 0b1000000100100011#16 = .xorReg 0x1#4 0x2#4 ∧
  decodeWord 0b1000000100100100#16 = .addReg 0x1#4 0x2#4 ∧
  decodeWord 0b1000000100100101#16 = .sub 0x1#4 0x2#4 ∧
  decodeWord 0b1000000100100110#16 = .shr 0x1#4 0x2#4 ∧
  decodeWord 0b1000000100100111#16 = .subn 0x1#4 0x2#4 ∧
  decodeWord 0b1000000100101110#16 = .shl 0x1#4 0x2#4 ∧
  decodeWord 0b1000000100101000#16 = .nop8 0x1#4 0x2#4 0x8#4 ∧
  decodeWord 0b1001000100100000#16 = .sneReg 0x1#4 0x2#4 ∧
  decodeWord 0b1001000100101111#16 = .nop9 0x1#4 0x2#4 0xF#4 ∧
  decodeWord 0b1010000100100011#16 = .ldI 0x123#12 ∧
  decodeWord 0b1011001100000000#16 = .jpV0 0x300#12 ∧
  decodeWord 0b1100000000001111#16 = .rnd 0x0#4 0x0F#8 ∧
  decodeWord 0b1101000000010101#16 = .drw 0x0#4 0x1#4 0x5#4 ∧
  decodeWord 0b1110001010011110#16 = .skp 0x2#4 ∧
  decodeWord 0b1110001010100001#16 = .sknp 0x2#4 ∧
  decodeWord 0b1110001010011111#16 = .nopE 0x2#4 0x9F#8 ∧
  decodeWord 0b1111001100000111#16 = .ldVxDt 0x3#4 ∧
  decodeWord 0b1111010100001010#16 = .ldVxK 0x5#4 ∧
  decodeWord 0b1111001100010101#16 = .ldDt 0x3#4 ∧
  decodeWord 0b1111001100011000#16 = .ldSt 0x3#4 ∧
  decodeWord 0b1111001100011110#16 = .addI 0x3#4 ∧
  decodeWord 0b1111000100101001#16 = .ldF 0x1#4 ∧
  decodeWord 0b1111011100110011#16 = .bcd 0x7#4 ∧
  decodeWord 0b1111001001010101#16 = .store 0x2#4 ∧
  decodeWord 0b1111001001100101#16 = .load 0x2#4 ∧
  decodeWord 0b1111001000011001#16 = .nopF 0x2#4 0x19#8

/-- R57, R67: a decoder always consumes two bytes; fewer are rejected by name (the rejection is the model's, log 20). -/
def Obligations.DecoderConsumesTwoBytes : Prop :=
  (∀ (first second : Byte) (rest : List Byte),
    decode (first :: second :: rest) = .ok (decodeWord (wordOfBytes first second), rest)) ∧
  (∀ b : Byte, decode [b] = .error .truncated) ∧ decode [] = .error .truncated

/-- R65, R66: every word of the no-op space runs with no effect (that 5XYN and 9XYN with N nonzero belong to it is the
spec's decision D11). -/
def Obligations.UnrecognizedWordsAreNops : Prop :=
  ∀ (w : Word) (s : State), Unrecognized w → exec (decodeWord w) s = .next s

/-! ## The step -/

/-- R70, R71: when the core moves next, is Running, can fetch, and the two bytes at PC decode to `i`, a step is `exec i` on
the state with PC advanced by two and the core's move taken off the agenda (the model's own field, log 1). -/
def Obligations.StepRunsDecodedInstruction : Prop :=
  ∀ (s : State) (i : Instr), CoreMovesNext s → s.run = .running → s.pc.toNat ≤ 0xFFE →
    decode [s.mem.read s.pc.toNat, s.mem.read (s.pc.toNat + 1)] = .ok (i, []) →
    step s = exec i { s with pc := s.pc + 2#13, agenda := s.agenda.tail }

/-- R70, "If the engine is not in the running state, step() is a no-op" (the agenda is the model's own, log 1). -/
def Obligations.CoreDoesNothingUnlessRunning : Prop :=
  ∀ s : State, CoreMovesNext s → s.run ≠ .running → step s = .next s.popAgenda

/-- R41: a fetch with PC + 1 > 0xFFF sets run to Halted; the second fetch of a skip has the same bound. That nothing else
changes is R70's sentence (D20; PC is HaltingFetchLeavesPc's), and that the core moves next is said by the agenda, the
model's own (log 1). -/
def Obligations.OutOfBoundsFetchHalts : Prop :=
  (∀ s : State, CoreMovesNext s → s.run = .running → 0xFFF < s.pc.toNat + 1 →
    ∃ t, step s = .next t ∧ t.run = .halted ∧ KeepsAllBut [.run, .pc, .agenda] s t) ∧
  (∀ s : State, 0xFFF < s.pc.toNat + 1 →
    s.skipNext.run = .halted ∧ KeepsAllBut [.run, .pc] s s.skipNext)

/-- The halting fetch, at step and at a skip, leaves PC unchanged (the spec's decision D20, in R70 and R72), and so does each
of the six skip instructions where a taken skip would fetch past the end of Memory, taken or not (that the core moves next
is said by the agenda, log 1). -/
def Obligations.HaltingFetchLeavesPc : Prop :=
  (∀ s t : State, CoreMovesNext s → s.run = .running → 0xFFE < s.pc.toNat → step s = .next t → t.pc = s.pc) ∧
  (∀ s : State, 0xFFE < s.pc.toNat → s.skipNext.pc = s.pc) ∧
  (∀ (s : State) (x y : Reg) (nn : Byte) (i : Instr), 0xFFE < s.pc.toNat →
    i ∈ [.seImm x nn, .sneImm x nn, .seReg x y, .sneReg x y, .skp x, .sknp x] →
    ∃ t, exec i s = .next t ∧ t.pc = s.pc)

/-- R71, R120: every instruction runs in every state; none stops the machine. -/
def Obligations.ExecAlwaysCompletes : Prop :=
  ∀ (i : Instr) (s : State), ∃ t, exec i s = .next t

/-! ## Families 0, 1, 2, B: control -/

/-- R73, R82 (D11), R95, R114, R119: the no-op rows change nothing. -/
def Obligations.NoOpRowsChangeNothing : Prop :=
  ∀ (s : State) (nnn : Addr) (x y : Reg) (n : Nibble) (nn : Byte),
    exec (.sys nnn) s = .next s ∧ exec (.nop5 x y n) s = .next s ∧ exec (.nop8 x y n) s = .next s ∧
    exec (.nop9 x y n) s = .next s ∧ exec (.nopE x nn) s = .next s ∧ exec (.nopF x nn) s = .next s

/-- R106: the clear-screen instruction resets every buffer byte to 0 and changes nothing else, VF included. -/
def Obligations.ClearScreenClearsEveryByte : Prop :=
  ∀ s : State, ∃ t, exec .cls s = .next t ∧ (∀ r c, t.disp.get r c = 0#8) ∧ KeepsAllBut [.disp] s t

/-- R74: a return pops the last saved location into PC; with an empty stack it has no effect. -/
def Obligations.ReturnPopsOrDoesNothing : Prop :=
  ∀ s : State,
    (s.stack = [] → exec .ret s = .next s) ∧
    (∀ (l : List PcVal) (a : PcVal), s.stack = l ++ [a] →
      ∃ t, exec .ret s = .next t ∧ t.pc = a ∧ t.stack = l ∧ KeepsAllBut [.pc, .stack] s t)

/-- R75: PC <- NNN, an odd NNN taken as it is (R43, D8). -/
def Obligations.JumpSetsPc : Prop :=
  ∀ (s : State) (nnn : Addr), ∃ t, exec (.jp nnn) s = .next t ∧ t.pc.toNat = nnn.toNat ∧ KeepsAllBut [.pc] s t

/-- R76: the fetch-advanced PC is pushed, PC <- NNN. -/
def Obligations.CallPushesAndJumps : Prop :=
  ∀ (s : State) (nnn : Addr), ∃ t, exec (.call nnn) s = .next t ∧ t.stack = s.stack ++ [s.pc] ∧
    t.pc.toNat = nnn.toNat ∧ KeepsAllBut [.pc, .stack] s t

/-- R77: PC <- NNN + V[0], not wrapped (the spec's decision D7). -/
def Obligations.JumpWithOffsetDoesNotWrap : Prop :=
  ∀ (s : State) (nnn : Addr), ∃ t, exec (.jpV0 nnn) s = .next t ∧
    t.pc.toNat = nnn.toNat + (s.reg 0x0#4).toNat ∧ KeepsAllBut [.pc] s t

/-- R74, R76: a call and then a return resume after the call with the stack as it was (95_test_vectors.md W11). -/
def Obligations.CallThenReturnResumes : Prop :=
  ∀ (s : State) (nnn : Addr), ∃ t u, exec (.call nnn) s = .next t ∧ exec .ret t = .next u ∧
    u.pc = s.pc ∧ u.stack = s.stack ∧ KeepsAllBut [] s u

/-! ## Skips -/

/-- R78, R79: 3XNN skips when V[X] equals NN, 4XNN when it does not; otherwise nothing changes. -/
def Obligations.ImmediateSkips : Prop :=
  ∀ (s : State) (x : Reg) (nn : Byte),
    (s.reg x = nn → (∃ t, exec (.seImm x nn) s = .next t ∧ Skips s t) ∧ exec (.sneImm x nn) s = .next s) ∧
    (s.reg x ≠ nn → (∃ t, exec (.sneImm x nn) s = .next t ∧ Skips s t) ∧ exec (.seImm x nn) s = .next s)

/-- R80, R81: 5XY0 skips when V[X] equals V[Y], 9XY0 when they differ; otherwise nothing changes. -/
def Obligations.RegisterSkips : Prop :=
  ∀ (s : State) (x y : Reg),
    (s.reg x = s.reg y → (∃ t, exec (.seReg x y) s = .next t ∧ Skips s t) ∧ exec (.sneReg x y) s = .next s) ∧
    (s.reg x ≠ s.reg y → (∃ t, exec (.sneReg x y) s = .next t ∧ Skips s t) ∧ exec (.seReg x y) s = .next s)

/-- R112, R113: EX9E skips when the key named by the low nibble of V[X] is pressed, EXA1 when it is not; otherwise nothing
changes. -/
def Obligations.KeySkips : Prop :=
  ∀ (s : State) (x : Reg) (k : Nibble), k.toNat = (s.reg x).toNat % 16 →
    (s.pressed k = true → (∃ t, exec (.skp x) s = .next t ∧ Skips s t) ∧ exec (.sknp x) s = .next s) ∧
    (s.pressed k = false → (∃ t, exec (.sknp x) s = .next t ∧ Skips s t) ∧ exec (.skp x) s = .next s)

/-! ## Families 6, 7, 8, C: arithmetic and logic -/

/-- R84, R86 (both from the standard table, GK3): the immediate, or V[Y], goes to V[X] alone. -/
def Obligations.LoadsWriteOneRegister : Prop :=
  ∀ (s : State) (x y : Reg) (nn : Byte),
    (∃ t, exec (.ldImm x nn) s = .next t ∧ t.reg x = nn ∧ (∀ r, r ≠ x → t.reg r = s.reg r) ∧
      KeepsAllBut [.v] s t) ∧
    (∃ t, exec (.ldReg x y) s = .next t ∧ t.reg x = s.reg y ∧ (∀ r, r ≠ x → t.reg r = s.reg r) ∧
      KeepsAllBut [.v] s t)

/-- R85: V[X] <- (V[X] + NN) mod 256; no other register changes, so VF does not unless it is the destination. -/
def Obligations.AddImmediateLeavesFlag : Prop :=
  ∀ (s : State) (x : Reg) (nn : Byte), ∃ t, exec (.addImm x nn) s = .next t ∧
    (t.reg x).toNat = ((s.reg x).toNat + nn.toNat) % 256 ∧ (∀ r, r ≠ x → t.reg r = s.reg r) ∧ KeepsAllBut [.v] s t

/-- R87, R88, R89: bit by bit OR, AND, XOR into V[X]; VF is not written (the spec's decision D10; GK3). -/
def Obligations.LogicWritesOnlyDestination : Prop :=
  ∀ (s : State) (x y : Reg),
    (∃ t, exec (.orReg x y) s = .next t ∧
      (∀ j, (t.reg x).getLsbD j = ((s.reg x).getLsbD j || (s.reg y).getLsbD j)) ∧
      (∀ r, r ≠ x → t.reg r = s.reg r) ∧ KeepsAllBut [.v] s t) ∧
    (∃ t, exec (.andReg x y) s = .next t ∧
      (∀ j, (t.reg x).getLsbD j = ((s.reg x).getLsbD j && (s.reg y).getLsbD j)) ∧
      (∀ r, r ≠ x → t.reg r = s.reg r) ∧ KeepsAllBut [.v] s t) ∧
    (∃ t, exec (.xorReg x y) s = .next t ∧
      (∀ j, (t.reg x).getLsbD j = ((s.reg x).getLsbD j ^^ (s.reg y).getLsbD j)) ∧
      (∀ r, r ≠ x → t.reg r = s.reg r) ∧ KeepsAllBut [.v] s t)

/-- R90, R97: V[X] <- (a + b) mod 256, VF <- 1 iff a + b ≥ 256; with X = 0xF the flag is what remains (R12, the spec's
decision D9). -/
def Obligations.AddRegisterSetsCarry : Prop :=
  ∀ (s : State) (x y : Reg), ∃ t, exec (.addReg x y) s = .next t ∧
    (x ≠ 0xF#4 → (t.reg x).toNat = ((s.reg x).toNat + (s.reg y).toNat) % 256) ∧
    t.reg 0xF#4 = (if 256 ≤ (s.reg x).toNat + (s.reg y).toNat then 1#8 else 0#8) ∧
    (∀ r, r ≠ x → r ≠ 0xF#4 → t.reg r = s.reg r) ∧ KeepsAllBut [.v] s t

/-- R91, R93, R97: 8XY5 is V[X] - V[Y], 8XY7 is V[Y] - V[X] (GK3), both mod 256, with VF = 1 iff no borrow; with X = 0xF
the flag is what remains (R12, D9). -/
def Obligations.SubtractsSetNoBorrow : Prop :=
  ∀ (s : State) (x y : Reg),
    (∃ t, exec (.sub x y) s = .next t ∧
      (x ≠ 0xF#4 → (t.reg x).toNat = ((s.reg x).toNat + 256 - (s.reg y).toNat) % 256) ∧
      t.reg 0xF#4 = (if (s.reg y).toNat ≤ (s.reg x).toNat then 1#8 else 0#8) ∧
      (∀ r, r ≠ x → r ≠ 0xF#4 → t.reg r = s.reg r) ∧ KeepsAllBut [.v] s t) ∧
    (∃ t, exec (.subn x y) s = .next t ∧
      (x ≠ 0xF#4 → (t.reg x).toNat = ((s.reg y).toNat + 256 - (s.reg x).toNat) % 256) ∧
      t.reg 0xF#4 = (if (s.reg x).toNat ≤ (s.reg y).toNat then 1#8 else 0#8) ∧
      (∀ r, r ≠ x → r ≠ 0xF#4 → t.reg r = s.reg r) ∧ KeepsAllBut [.v] s t)

/-- R92, R94, R97: V[X] <- V[Y] shifted by one, VF <- the bit shifted out; V[Y] keeps its value unless it is a destination;
with X = 0xF the flag is what remains (R12, D9). -/
def Obligations.ShiftsTakeTheSource : Prop :=
  ∀ (s : State) (x y : Reg),
    (∃ t, exec (.shr x y) s = .next t ∧
      (x ≠ 0xF#4 → (t.reg x).toNat = (s.reg y).toNat / 2) ∧ (t.reg 0xF#4).toNat = (s.reg y).toNat % 2 ∧
      (∀ r, r ≠ x → r ≠ 0xF#4 → t.reg r = s.reg r) ∧ KeepsAllBut [.v] s t) ∧
    (∃ t, exec (.shl x y) s = .next t ∧
      (x ≠ 0xF#4 → (t.reg x).toNat = 2 * (s.reg y).toNat % 256) ∧ (t.reg 0xF#4).toNat = (s.reg y).toNat / 128 ∧
      (∀ r, r ≠ x → r ≠ 0xF#4 → t.reg r = s.reg r) ∧ KeepsAllBut [.v] s t)

/-- R96, R135: V[X] is the fresh byte AND the mask. The byte is a free value of the draw count, which moves on by one (the
model's own field, log 3): nothing is said of its value. -/
def Obligations.RandomByteIsMasked : Prop :=
  ∀ (s : State) (x : Reg) (nn : Byte), ∃ t, exec (.rnd x nn) s = .next t ∧
    (∀ j, (t.reg x).getLsbD j = ((Config.randomByte s.draws).getLsbD j && nn.getLsbD j)) ∧
    t.draws = s.draws + 1 ∧ (∀ r, r ≠ x → t.reg r = s.reg r) ∧ KeepsAllBut [.v, .draws] s t

/-! ## Families A and F: the address register and memory -/

/-- R98 (GK3), R99 (mod 4096, no flag: D10, GK3), R100 (glyph of the low nibble, FONT_BASE = 0, stride 5: D3, D14): what I
becomes; nothing else changes. -/
def Obligations.AddressRegisterWrites : Prop :=
  ∀ (s : State) (nnn : Addr) (x : Reg),
    (∃ t, exec (.ldI nnn) s = .next t ∧ t.i = nnn ∧ KeepsAllBut [.i] s t) ∧
    (∃ t, exec (.addI x) s = .next t ∧ t.i.toNat = (s.i.toNat + (s.reg x).toNat) % 4096 ∧ KeepsAllBut [.i] s t) ∧
    (∃ t, exec (.ldF x) s = .next t ∧ t.i.toNat = 5 * ((s.reg x).toNat % 16) ∧ KeepsAllBut [.i] s t)

/-- R101: the decimal digits of V[X] at I, I + 1 and I + 2 mod 4096; every other byte and I are unchanged. -/
def Obligations.BcdStoresThreeDigits : Prop :=
  ∀ (s : State) (x : Reg), ∃ t, exec (.bcd x) s = .next t ∧
    (t.readByte s.i).toNat = (s.reg x).toNat / 100 ∧
    (t.readByte (s.i + 1#12)).toNat = (s.reg x).toNat / 10 % 10 ∧
    (t.readByte (s.i + 2#12)).toNat = (s.reg x).toNat % 10 ∧
    (∀ a : Addr, a ≠ s.i → a ≠ s.i + 1#12 → a ≠ s.i + 2#12 → t.readByte a = s.readByte a) ∧
    KeepsAllBut [.mem] s t

/-- R102: V0..VX go to I..I + X mod 4096, every other byte is unchanged, and I moves on by X + 1 mod 4096. -/
def Obligations.BlockStoreCopiesRegisters : Prop :=
  ∀ (s : State) (x : Reg), ∃ t, exec (.store x) s = .next t ∧
    (∀ r : Reg, r.toNat ≤ x.toNat → t.readByte (s.i + BitVec.ofNat 12 r.toNat) = s.reg r) ∧
    (∀ a : Addr, (∀ k ≤ x.toNat, a ≠ s.i + BitVec.ofNat 12 k) → t.readByte a = s.readByte a) ∧
    t.i.toNat = (s.i.toNat + x.toNat + 1) % 4096 ∧ KeepsAllBut [.mem, .i] s t

/-- R103: V0..VX come from I..I + X mod 4096, the registers above are unchanged, and I moves on by X + 1 mod 4096. -/
def Obligations.BlockLoadFillsRegisters : Prop :=
  ∀ (s : State) (x : Reg), ∃ t, exec (.load x) s = .next t ∧
    (∀ r : Reg, r.toNat ≤ x.toNat → t.reg r = s.readByte (s.i + BitVec.ofNat 12 r.toNat)) ∧
    (∀ r : Reg, x.toNat < r.toNat → t.reg r = s.reg r) ∧
    t.i.toNat = (s.i.toNat + x.toNat + 1) % 4096 ∧ KeepsAllBut [.v, .i] s t

/-- R55 (the spec's decision D24), R101, R102: after FX55 or FX33 the very next fetch reads, for each of its two bytes, the
byte just stored at that address, or the byte that was there where none was stored. -/
def Obligations.StoredBytesAreFetched : Prop :=
  ∀ (s : State) (x : Reg), s.pc.toNat ≤ 0xFFE →
    (∃ t first second, exec (.store x) s = .next t ∧ t.fetchWord = some (wordOfBytes first second) ∧
      StoredOrKept s (x.toNat + 1) (fun k => s.reg (BitVec.ofNat 4 k)) s.pc.toNat first ∧
      StoredOrKept s (x.toNat + 1) (fun k => s.reg (BitVec.ofNat 4 k)) (s.pc.toNat + 1) second) ∧
    (∃ t first second, exec (.bcd x) s = .next t ∧ t.fetchWord = some (wordOfBytes first second) ∧
      StoredOrKept s 3 (fun k => BitVec.ofNat 8 ((s.reg x).toNat / 10 ^ (2 - k) % 10)) s.pc.toNat first ∧
      StoredOrKept s 3 (fun k => BitVec.ofNat 8 ((s.reg x).toNat / 10 ^ (2 - k) % 10)) (s.pc.toNat + 1) second)

/-! ## Family D: the compositor -/

/-- R105, R107, R108, R109: a draw XORs the sprite onto the buffer pixel by pixel, wrapping at both edges, and VF is 1
exactly when some lit pixel is turned off. N = 0 draws nothing and clears VF (D12); each byte is tested against its own
pattern (D13); coordinates are read before VF is written (R12, D9); the pixel order is R26's (D15). -/
def Obligations.DrawXorsEveryPixel : Prop :=
  ∀ (s : State) (x y : Reg) (n : Nibble), ∃ t, exec (.drw x y n) s = .next t ∧
    (∀ px py, t.disp.pixel px py = (s.disp.pixel px py ^^ s.spriteLit x y n px py)) ∧
    ((∃ px py, s.disp.pixel px py = true ∧ s.spriteLit x y n px py = true) → t.reg 0xF#4 = 1#8) ∧
    ((∀ px py, ¬(s.disp.pixel px py = true ∧ s.spriteLit x y n px py = true)) → t.reg 0xF#4 = 0#8) ∧
    (∀ r, r ≠ 0xF#4 → t.reg r = s.reg r) ∧ KeepsAllBut [.disp, .v] s t

/-- The XOR self-inverse (95_test_vectors.md W6, from R107 and R108): the same draw twice, with coordinates not taken from
VF, restores the buffer, and on a clear buffer the second draw collides exactly when some sprite byte is not 0. -/
def Obligations.DrawTwiceRestores : Prop :=
  ∀ (s : State) (x y : Reg) (n : Nibble), x ≠ 0xF#4 → y ≠ 0xF#4 →
    ∃ t u, exec (.drw x y n) s = .next t ∧ exec (.drw x y n) t = .next u ∧
      (∀ r c, u.disp.get r c = s.disp.get r c) ∧
      ((∀ r c, s.disp.get r c = 0#8) →
        ((∃ k < n.toNat, s.readByte (s.i + BitVec.ofNat 12 k) ≠ 0#8) → u.reg 0xF#4 = 1#8) ∧
        ((∀ k < n.toNat, s.readByte (s.i + BitVec.ofNat 12 k) = 0#8) → u.reg 0xF#4 = 0#8))

/-! ## Families E and F: timers and the key wait -/

/-- R115, R117, R118: FX07 reads DT into V[X]; FX15 and FX18 write V[X] to DT and to ST. -/
def Obligations.TimerRegisterAccess : Prop :=
  ∀ (s : State) (x : Reg),
    (∃ t, exec (.ldVxDt x) s = .next t ∧ t.reg x = s.dt ∧ (∀ r, r ≠ x → t.reg r = s.reg r) ∧ KeepsAllBut [.v] s t) ∧
    (∃ t, exec (.ldDt x) s = .next t ∧ t.dt = s.reg x ∧ KeepsAllBut [.dt] s t) ∧
    (∃ t, exec (.ldSt x) s = .next t ∧ t.st = s.reg x ∧ KeepsAllBut [.st] s t)

/-- R116, R29: FX0A makes X the pending target and blocks, whatever the latch holds (90_conflicts.md C10). -/
def Obligations.KeyWaitBegins : Prop :=
  ∀ (s : State) (x : Reg), ∃ t, exec (.ldVxK x) s = .next t ∧ t.pending = some x ∧ t.run = .blocked ∧
    KeepsAllBut [.run, .pending] s t

/-- R133: a press in a wait writes the key code to the pending register, ends the wait and sets the latch bit. -/
def Obligations.KeyPressEndsWait : Prop :=
  ∀ (s : State) (x : Reg) (k : Nibble), s.run = .blocked → s.pending = some x →
    ∃ t, setKeyState k.toNat true s = .next t ∧ (t.reg x).toNat = k.toNat ∧ (∀ r, r ≠ x → t.reg r = s.reg r) ∧
      t.pending = none ∧ t.run = .running ∧ t.pressed k = true ∧ (∀ q, q ≠ k → t.pressed q = s.pressed q) ∧
      KeepsAllBut [.v, .pending, .run, .key] s t

/-- R133, R125 (D19): a release, or a press with no wait outstanding (in Halted too), changes the latch bit alone. -/
def Obligations.KeyEventWithoutWaitOnlyLatches : Prop :=
  ∀ (s : State) (k : Nibble) (p : Bool), (p = false ∨ s.run ≠ .blocked ∨ s.pending = none) →
    ∃ t, setKeyState k.toNat p s = .next t ∧ t.pressed k = p ∧ (∀ q, q ≠ k → t.pressed q = s.pressed q) ∧
      KeepsAllBut [.key] s t

/-- R138: a key code above 0xF is refused, with no step (D25; the refusal's form is the model's, log 10). -/
def Obligations.KeyCodeAboveFifteenRefused : Prop :=
  ∀ (s : State) (code : Nat) (p : Bool), 15 < code → setKeyState code p s = .refused (.keyCodeOutOfRange code)

/-- R134: clearKeyState releases every key and does not touch pending or run, nor anything else. -/
def Obligations.ClearKeysReleasesAll : Prop :=
  ∀ s : State, ∃ t, applyEvent .clearKeyState s = .next t ∧ (∀ k, t.pressed k = false) ∧ KeepsAllBut [.key] s t

/-- R125 (D19): halt() sets Halted and drops a pending wait from Running or Blocked, and does nothing in Halted. -/
def Obligations.HostHaltStops : Prop :=
  (∀ s : State, s.run = .running ∨ s.run = .blocked →
    ∃ t, applyEvent .halt s = .next t ∧ t.run = .halted ∧ t.pending = none ∧ KeepsAllBut [.run, .pending] s t) ∧
  (∀ s : State, s.run = .halted → applyEvent .halt s = .next s)

/-! ## The Timer Unit -/

/-- R128: each nonzero counter goes down by one, on its own; a counter at 0 stays, and nothing else changes. -/
def Obligations.TickCountsDown : Prop :=
  ∀ s : State, ∃ t, applyEvent .tick s = .next t ∧
    (s.dt ≠ 0#8 → t.dt.toNat + 1 = s.dt.toNat) ∧ (s.dt = 0#8 → t.dt = 0#8) ∧
    (s.st ≠ 0#8 → t.st.toNat + 1 = s.st.toNat) ∧ (s.st = 0#8 → t.st = 0#8) ∧ KeepsAllBut [.dt, .st] s t

/-- R128, R129: after n ticks a counter holds its value less n, or 0. -/
def Obligations.TicksDrainCounters : Prop :=
  ∀ (s : State) (n : Nat), (s.ticks n).dt.toNat = s.dt.toNat - n ∧ (s.ticks n).st.toNat = s.st.toNat - n ∧
    KeepsAllBut [.dt, .st] s (s.ticks n)

/-- R129, R131, R158: in a final engine, Halted or parked, the counters reach 0 in every fair run, whether its ticks are
events of their own or fall inside frame bursts (the schedule and its fairness are predicates of the model, log 14). -/
def Obligations.FairTicksDrainFinalCounters : Prop :=
  ∀ (schedule : Nat → Event) (s : State), FairRun schedule s → Final s →
    ∃ n t, runSchedule schedule s n = .next t ∧ t.dt = 0#8 ∧ t.st = 0#8

/-! ## Run states and frame bursts -/

/-- R124, R142: nothing leaves Halted, and in it only latch updates and ticks change the state (the agenda is the model's
own, log 1). -/
def Obligations.HaltedIsTerminal : Prop :=
  ∀ s t : State, s.run = .halted → step s = .next t →
    t.run = .halted ∧ KeepsAllBut [.key, .dt, .st, .agenda] s t

/-- R142, R124: Blocked is left only by a key press or by halt(): the move at the head of the agenda, the model's own (log 1;
an empty agenda means the core moves). -/
def Obligations.BlockedLeftOnlyByPressOrHalt : Prop :=
  ∀ s t : State, s.run = .blocked → step s = .next t → t.run ≠ .blocked →
    (∃ code, s.agenda.head? = some (.setKeyState code true)) ∨ s.agenda.head? = some .halt

/-- R139, R140 (D18, 90_conflicts.md C5): a burst always returns; with a nonzero budget its count is at most the budget; it
is at most the iterations the window allows (its list, log 11); and in an engine not Running it is 0 and the state is
unchanged. -/
def Obligations.FrameCountWithinBudget : Prop :=
  ∀ (budget : Nat) (window : List Nat) (s : State), ∃ t n, doFrame budget window s = .next (t, n) ∧
    (budget ≠ 0 → n ≤ budget) ∧ n ≤ window.length ∧ (s.run ≠ .running → n = 0 ∧ t = s)

/-- R158 (marked derived in the spec): from a parked state the core's step changes nothing at all. -/
def Obligations.ParkedStepChangesNothing : Prop :=
  ∀ s : State, Parked s → coreStep s = .next s

/-- R139, R140, R75, R158 (95_test_vectors.md W10; D18; the window is a list with an entry for each iteration it allows,
the model's choice, log 11): in a parked engine a burst runs the whole budget, or until the window
elapses, and leaves everything but the counters as it was. -/
def Obligations.FrameOnParkedRunsItsBudget : Prop :=
  ∀ (budget : Nat) (window : List Nat) (s : State), Parked s →
    ∃ t, doFrame budget window s =
        .next (t, if budget = 0 then window.length else min budget window.length) ∧
      KeepsAllBut [.dt, .st] s t

/-! ## Reset, construction and the engine's life -/

/-- R32, R46 (the spec's decisions D3, D4, D5): what the machine holds after construction with an empty image. The font
bytes are those of R31, written out glyph by glyph (D3, GK4). `draws` and `agenda` are the model's own and not spoken of. -/
def Obligations.ResetHoldsTheStatedValues : Prop :=
  State.reset.run = .running ∧ State.reset.pc.toNat = 0x200 ∧ State.reset.i = 0#12 ∧ State.reset.stack = [] ∧
  State.reset.dt = 0#8 ∧ State.reset.st = 0#8 ∧ State.reset.pending = none ∧
  (∀ r, State.reset.reg r = 0#8) ∧ (∀ k, State.reset.pressed k = false) ∧
  (∀ r c, State.reset.disp.get r c = 0#8) ∧
  (∀ a : Addr, 80 ≤ a.toNat → State.reset.readByte a = 0#8) ∧
  (∀ a : Addr, a.toNat < 80 → some (State.reset.readByte a) = Config.fontData[a.toNat]?) ∧
  (List.range 80).map (fun a => State.reset.readByte (BitVec.ofNat 12 a)) =
      [0xF0#8, 0x90#8, 0x90#8, 0x90#8, 0xF0#8] ++ [0x20#8, 0x60#8, 0x20#8, 0x20#8, 0x70#8] ++
      [0xF0#8, 0x10#8, 0xF0#8, 0x80#8, 0xF0#8] ++ [0xF0#8, 0x10#8, 0xF0#8, 0x10#8, 0xF0#8] ++
      [0x90#8, 0x90#8, 0xF0#8, 0x10#8, 0x10#8] ++ [0xF0#8, 0x80#8, 0xF0#8, 0x10#8, 0xF0#8] ++
      [0xF0#8, 0x80#8, 0xF0#8, 0x90#8, 0xF0#8] ++ [0xF0#8, 0x10#8, 0x20#8, 0x40#8, 0x40#8] ++
      [0xF0#8, 0x90#8, 0xF0#8, 0x90#8, 0xF0#8] ++ [0xF0#8, 0x90#8, 0xF0#8, 0x10#8, 0xF0#8] ++
      [0xF0#8, 0x90#8, 0xF0#8, 0x90#8, 0x90#8] ++ [0xE0#8, 0x90#8, 0xE0#8, 0x90#8, 0xE0#8] ++
      [0xF0#8, 0x80#8, 0x80#8, 0x80#8, 0xF0#8] ++ [0xE0#8, 0x90#8, 0x90#8, 0x90#8, 0xE0#8] ++
      [0xF0#8, 0x80#8, 0xF0#8, 0x80#8, 0xF0#8] ++ [0xF0#8, 0x80#8, 0xF0#8, 0x80#8, 0x80#8]

/-- R145, R146, R46 (D3 to D6): an image of at most 0xE00 bytes lies at 0x200 verbatim, every other byte and every other
part are at their reset values. -/
def Obligations.ConstructCopiesImage : Prop :=
  ∀ image : List Byte, image.length ≤ 0xE00 → ∃ s, construct image = .next s ∧
    (∀ k (h : k < image.length), s.mem.read (0x200 + k) = image[k]) ∧
    (∀ a, a < 0x200 ∨ 0x200 + image.length ≤ a → s.mem.read a = State.reset.mem.read a) ∧
    KeepsAllBut [.mem] State.reset s

/-- R146 (D6): a longer image is refused (the refusal's form is the model's, log 10). -/
def Obligations.ConstructRefusesLongImages : Prop :=
  ∀ image : List Byte, 0xE00 < image.length → construct image = .refused (.imageTooLong image.length)

/-- R138, R147, R149: no operation but construct is defined where no engine lives, construct is not defined on one that
lives, and teardown destroys it (the refusals are the model's form, log 9). -/
def Obligations.EngineLifetime : Prop :=
  (∀ e, Engine.apply (.event e) .absent = .refused .noEngine) ∧
  Engine.apply .teardown .absent = .refused .noEngine ∧
  (∀ image s, Engine.apply (.construct image) (.live s) = .refused .alreadyConstructed) ∧
  (∀ s, Engine.apply .teardown (.live s) = .next .absent)

/-! ## The whole machine -/

/-- The reset state is legal. -/
def Obligations.ResetIsLegal : Prop := Legal State.reset

/-- Every step of every agent keeps the state legal: canonical memory, PC within R20's range, saved locations a CALL can
push (R76), pending exactly while Blocked (R29), counters at 0 in Loading (R131). -/
def Obligations.StepKeepsLegal : Prop :=
  ∀ s t : State, Legal s → step s = .next t → Legal t

/-- R120, R144: no step of any agent faults, in any state. -/
def Obligations.StepNeverFaults : Prop :=
  ∀ (s : State) (r : Fault), step s ≠ .fault r

/-- R33 (marked derived in the spec), with R22, R26 and R27 in it: an instruction writes no part but those the access table
gives it. -/
def Obligations.InstructionsWriteOnlyTheirParts : Prop :=
  ∀ (i : Instr) (s t : State), exec i s = .next t → KeepsAllBut (mayWrite i) s t

/-- R18 (the closed list is the spec's decision D10), R33: a register changes only as an explicit destination, or as VF of
one of the six flag-writing instructions. -/
def Obligations.RegistersChangeOnlyAsDestinations : Prop :=
  ∀ (i : Instr) (s t : State) (r : Reg), exec i s = .next t → ¬ mayWriteReg i r → t.reg r = s.reg r

/-- R25, "No instruction reads ST" (marked derived in the spec): two states that differ in ST alone are taken by every
instruction to states that differ in ST alone, and there each keeps its ST or both take one value. CXNN runs on equal draws
in the two: the byte it takes is an input (R36), given by the draw count they share (log 3). -/
def Obligations.SoundCounterIsNeverRead : Prop :=
  ∀ (i : Instr) (s t : State) (b : Byte), exec i s = .next t →
    ∃ u, exec i { s with st := b } = .next u ∧ KeepsAllBut [.st] t u ∧ (t.st = s.st ∧ u.st = b ∨ u.st = t.st)

/-- R36 (D17, D18, D22), R129, R135, R140: every step of the machine is a step of the relation over R14's tuple, under
inputs of the agent that moves: with the random bytes, the budget and the window as arguments, the tuple after and every
stop are the same. So what `step` takes from the two carriers of State (log 1, log 3) is nothing but those inputs. -/
def Obligations.StepFollowsTheRelation : Prop :=
  ∀ s : State, ∃ input : Input, input.event = s.nextEvent ∧ Arch.step input s.toArch = archOf (step s)
end

