-- ==== Sys2Proof/Laws/Display.lean ====
section
/-!
SUPPORT. The laws of the display buffer and of the compositor's parts.
-/

namespace Sys2Proof.Machine.Display

theorem get_put (d : Display) (r r' : Fin 32) (c c' : Fin 8) (b : Byte) :
    (d.put r c b).get r' c' = if r' = r ∧ c' = c then b else d.get r' c' := by
  by_cases hr : r' = r
  · subst hr
    by_cases hc : c' = c
    · subst hc; simp [get, put]
    · have : c.val ≠ c'.val := fun e => hc (Fin.ext e.symm)
      simp [get, put, hc, this]
  · have : r.val ≠ r'.val := fun e => hr (Fin.ext e.symm)
    simp [get, put, hr, this]

@[simp] theorem get_clear (r : Fin 32) (c : Fin 8) : clear.get r c = 0#8 := by simp [get, clear]

/-- Two buffers with equal bytes are equal. -/
theorem ext_get {d e : Display} (h : ∀ r c, d.get r c = e.get r c) : d = e := by
  apply Vector.ext
  intro r hr
  apply Vector.ext
  intro c hc
  exact h ⟨r, hr⟩ ⟨c, hc⟩

theorem get_xorByte (d : Display) (r r' : Fin 32) (c c' : Fin 8) (p : Byte) :
    (d.xorByte r c p).1.get r' c' = if r' = r ∧ c' = c then d.get r c ^^^ p else d.get r' c' := by
  simp [xorByte, get_put]

theorem add_one_ne (b : Fin 8) : b + 1 ≠ b := by omega

/-- A line XORs its first part into byte column b of its row and, off a byte boundary, its second part into b + 1. -/
theorem get_drawLine (d : Display) (r r' : Fin 32) (b c : Fin 8) (o : Nat) (line : Byte) :
    (d.drawLine r b o line).1.get r' c =
      d.get r' c ^^^ (if r' = r ∧ c = b then line >>> o
        else if r' = r ∧ c = b + 1 ∧ o ≠ 0 then line <<< (8 - o) else 0#8) := by
  have hne := add_one_ne b
  by_cases ho : o = 0
  · by_cases h1 : r' = r ∧ c = b
    · obtain ⟨rfl, rfl⟩ := h1; simp [drawLine, ho, get_xorByte]
    · simp [drawLine, ho, get_xorByte, h1]
  · by_cases h1 : r' = r ∧ c = b
    · obtain ⟨rfl, rfl⟩ := h1
      simp [drawLine, ho, get_xorByte, Ne.symm hne]
    · by_cases h2 : r' = r ∧ c = b + 1
      · obtain ⟨rfl, rfl⟩ := h2
        simp [drawLine, ho, get_xorByte, hne]
      · have h3 : ¬(r' = r ∧ c = b + 1 ∧ o ≠ 0) := fun h => h2 ⟨h.1, h.2.1⟩
        simp only [h1, h3, if_false]
        simp [drawLine, ho, get_xorByte, h1, h2]

/-- A line collides when it turns a lit pixel of either of its bytes off. -/
theorem drawLine_hit (d : Display) (r : Fin 32) (b : Fin 8) (o : Nat) (line : Byte) :
    (d.drawLine r b o line).2 =
      (d.get r b &&& (line >>> o) != 0#8 || (decide (o ≠ 0) && (d.get r (b + 1) &&& (line <<< (8 - o)) != 0#8))) := by
  have hne := add_one_ne b
  by_cases ho : o = 0
  · simp [drawLine, xorByte, ho]
  · simp [drawLine, xorByte, ho, get_put, hne]

@[simp] theorem drawLines_zero (d : Display) (cy : Nat) (b : Fin 8) (o : Nat) (line : Nat → Byte) :
    d.drawLines cy b o line 0 = (d, false) := rfl

theorem drawLines_succ (d : Display) (cy : Nat) (b : Fin 8) (o : Nat) (line : Nat → Byte) (n : Nat) :
    d.drawLines cy b o line (n + 1) =
      (((d.drawLines cy b o line n).1.drawLine (spriteRow cy n) b o (line n)).1,
        (d.drawLines cy b o line n).2 || ((d.drawLines cy b o line n).1.drawLine (spriteRow cy n) b o (line n)).2) := rfl

/-! ### Pixel by pixel (43_display.md R107 to R109) -/

/-- How far right of column `cx` pixel `px` lies, around the edge of the 64 columns. -/
def across (cx px : Nat) : Nat := (px + 64 - cx) % 64
/-- How far below row `cy` row `py` lies, around the edge of the 32 rows. -/
def down (cy py : Nat) : Nat := (py + 32 - cy) % 32
/-- Whether a sprite line at column `cx` lights column `px`. -/
def lineLit (cx : Nat) (line : Byte) (px : Nat) : Bool := decide (across cx px < 8) && line.getLsbD (7 - across cx px)

/-- The two shifted parts of a line, read at one pixel, are the line's bit at that pixel. -/
theorem pixel_pattern (cx px : Nat) (hc : cx < 64) (hp : px < 64) (line : Byte) :
    (if px / 8 = cx / 8 then line >>> (cx % 8)
        else if px / 8 = (cx / 8 + 1) % 8 ∧ cx % 8 ≠ 0 then line <<< (8 - cx % 8) else 0#8).getLsbD (7 - px % 8) =
      lineLit cx line px := by
  unfold lineLit across
  by_cases h1 : px / 8 = cx / 8
  · rw [if_pos h1, BitVec.getLsbD_ushiftRight]
    by_cases h : cx % 8 ≤ px % 8
    · have e : (px + 64 - cx) % 64 = px % 8 - cx % 8 := by omega
      rw [e, decide_eq_true (by omega), Bool.true_and]
      congr 1; omega
    · rw [decide_eq_false (by omega), Bool.false_and, BitVec.getLsbD_of_ge _ _ (by omega)]
  · rw [if_neg h1]
    by_cases h2 : px / 8 = (cx / 8 + 1) % 8 ∧ cx % 8 ≠ 0
    · rw [if_pos h2, BitVec.getLsbD_shiftLeft]
      by_cases h : px % 8 < cx % 8
      · have e : (px + 64 - cx) % 64 = px % 8 + 8 - cx % 8 := by omega
        rw [e, decide_eq_true (show px % 8 + 8 - cx % 8 < 8 by omega), decide_eq_true (show 7 - px % 8 < 8 by omega), decide_eq_false (by omega)]
        simp only [Bool.not_false, Bool.true_and]
        congr 1; omega
      · have e : ¬ (px + 64 - cx) % 64 < 8 := by omega
        rw [decide_eq_false e, decide_eq_true (show 7 - px % 8 < 8 - cx % 8 by omega)]
        simp
    · rw [if_neg h2]
      have e : ¬ (px + 64 - cx) % 64 < 8 := by omega
      simp [e]

/-- A line XORs the pixels it lights in its row. -/
theorem pixel_drawLine (d : Display) (r : Fin 32) (cx : Nat) (hc : cx < 64) (line : Byte) (px : Fin 64) (py : Fin 32) :
    (d.drawLine r (Fin.ofNat 8 (cx / 8)) (cx % 8) line).1.pixel px py =
      (d.pixel px py ^^ (decide (py = r) && lineLit cx line px)) := by
  have hp := px.isLt
  rw [pixel, get_drawLine, BitVec.getLsbD_xor, ← pixel]
  congr 1
  by_cases hr : py = r
  · subst hr
    rw [decide_eq_true rfl, Bool.true_and, ← pixel_pattern cx px hc hp]
    have e1 : (Fin.ofNat 8 (px.val / 8) = Fin.ofNat 8 (cx / 8)) ↔ px.val / 8 = cx / 8 := by
      rw [Fin.ext_iff]; simp only [Fin.ofNat]; omega
    have e2 : (Fin.ofNat 8 (px.val / 8) = Fin.ofNat 8 (cx / 8) + 1) ↔ px.val / 8 = (cx / 8 + 1) % 8 := by
      rw [Fin.ext_iff]; simp only [Fin.ofNat, Fin.val_add]; omega
    simp only [e1, e2, true_and]
  · simp [hr]

/-- Two bytes share a set bit. -/
theorem and_ne_zero (a b : Byte) : (a &&& b != 0#8) = true ↔ ∃ k < 8, a.getLsbD k = true ∧ b.getLsbD k = true := by
  rw [bne_iff_ne]
  constructor
  · intro h
    by_contra hn
    apply h
    apply BitVec.eq_of_getLsbD_eq
    intro k hk
    simp only [BitVec.getLsbD_and, BitVec.getLsbD_zero]
    by_contra h'
    exact hn ⟨k, hk, by simpa using h'⟩
  · rintro ⟨k, hk, h1, h2⟩ he
    have := congrArg (fun x => BitVec.getLsbD x k) he
    simp [h1, h2] at this

/-- A line collides exactly when it lights a lit pixel of its row. -/
theorem drawLine_hit_iff (d : Display) (r : Fin 32) (cx : Nat) (hc : cx < 64) (line : Byte) :
    (d.drawLine r (Fin.ofNat 8 (cx / 8)) (cx % 8) line).2 = true ↔
      ∃ px : Fin 64, d.pixel px r = true ∧ lineLit cx line px = true := by
  have key : ∀ c : Fin 8, ∀ p : Byte, (∀ k < 8, p.getLsbD k = lineLit cx line (8 * c.val + (7 - k))) →
      ((d.get r c &&& p != 0#8) = true ↔ ∃ px : Fin 64, px.val / 8 = c.val ∧ d.pixel px r = true ∧ lineLit cx line px = true) := by
    intro c p hp
    have hcl := c.isLt
    rw [and_ne_zero]
    constructor
    · rintro ⟨k, hk, h1, h2⟩
      refine ⟨⟨8 * c.val + (7 - k), by omega⟩, by simp; omega, ?_, by rw [← hp k hk]; exact h2⟩
      have e : Fin.ofNat 8 ((8 * c.val + (7 - k)) / 8) = c := by
        apply Fin.ext; simp only [Fin.ofNat]; omega
      have e2 : 7 - (8 * c.val + (7 - k)) % 8 = k := by omega
      rw [pixel]; simp only [e, e2]; exact h1
    · rintro ⟨px, h0, h1, h2⟩
      have hpx := px.isLt
      have e : Fin.ofNat 8 (px.val / 8) = c := by
        apply Fin.ext; simp only [Fin.ofNat]; omega
      rw [pixel, e] at h1
      refine ⟨7 - px.val % 8, by omega, h1, ?_⟩
      rw [hp _ (by omega), show 8 * c.val + (7 - (7 - px.val % 8)) = px.val by omega]
      exact h2
  have pat : ∀ c : Nat, c < 8 → ∀ k < 8, (if c = cx / 8 then line >>> (cx % 8)
        else if c = (cx / 8 + 1) % 8 ∧ cx % 8 ≠ 0 then line <<< (8 - cx % 8) else 0#8).getLsbD k = lineLit cx line (8 * c + (7 - k)) := by
    intro c hcl k hk
    have := pixel_pattern cx (8 * c + (7 - k)) hc (by omega) line
    rw [show (8 * c + (7 - k)) / 8 = c by omega, show 7 - (8 * c + (7 - k)) % 8 = k by omega] at this
    exact this
  rw [drawLine_hit, Bool.or_eq_true, Bool.and_eq_true]
  have hb1 : (Fin.ofNat 8 (cx / 8)).val = cx / 8 := by simp only [Fin.ofNat]; omega
  have hb2 : (Fin.ofNat 8 (cx / 8) + 1).val = (cx / 8 + 1) % 8 := by simp only [Fin.ofNat, Fin.val_add]; omega
  have k1 := key (Fin.ofNat 8 (cx / 8)) (line >>> (cx % 8)) (fun k hk => by
    have := pat (cx / 8) (by omega) k hk; rw [if_pos rfl] at this; rw [hb1]; exact this)
  rw [k1]
  constructor
  · rintro (⟨px, _, h⟩ | ⟨ho, h⟩)
    · exact ⟨px, h⟩
    · have ho : cx % 8 ≠ 0 := by simpa using ho
      have k2 := key (Fin.ofNat 8 (cx / 8) + 1) (line <<< (8 - cx % 8)) (fun k hk => by
        have := pat ((cx / 8 + 1) % 8) (by omega) k hk
        rw [if_neg (by omega), if_pos ⟨rfl, ho⟩] at this; rw [hb2]; exact this)
      obtain ⟨px, _, h⟩ := k2.1 h
      exact ⟨px, h⟩
  · rintro ⟨px, h1, h2⟩
    have hpx := px.isLt
    by_cases hx : px.val / 8 = cx / 8
    · exact .inl ⟨px, by rw [hb1]; exact hx, h1, h2⟩
    · have pp := pixel_pattern cx px hc hpx line
      rw [if_neg hx, h2] at pp
      by_cases hx2 : px.val / 8 = (cx / 8 + 1) % 8 ∧ cx % 8 ≠ 0
      · refine .inr ⟨by simpa using hx2.2, ?_⟩
        have k2 := key (Fin.ofNat 8 (cx / 8) + 1) (line <<< (8 - cx % 8)) (fun k hk => by
          have := pat ((cx / 8 + 1) % 8) (by omega) k hk
          rw [if_neg (by omega), if_pos ⟨rfl, hx2.2⟩] at this; rw [hb2]; exact this)
        exact k2.2 ⟨px, by rw [hb2]; exact hx2.1, h1, h2⟩
      · rw [if_neg hx2] at pp; simp at pp

/-- The row of line `k` is the one `k` below the origin. -/
theorem spriteRow_eq (cy k : Nat) (hcy : cy < 32) (hk : k < 32) (py : Fin 32) : py = spriteRow cy k ↔ down cy py = k := by
  have := py.isLt
  rw [Fin.ext_iff]; simp only [spriteRow, Fin.ofNat, down]; omega

/-- Lines XOR the pixels that the sprite lights. -/
theorem pixel_drawLines (d : Display) (cx cy : Nat) (hc : cx < 64) (hcy : cy < 32) (line : Nat → Byte) (n : Nat) (hn : n ≤ 32)
    (px : Fin 64) (py : Fin 32) :
    (d.drawLines cy (Fin.ofNat 8 (cx / 8)) (cx % 8) line n).1.pixel px py =
      (d.pixel px py ^^ (decide (down cy py < n) && lineLit cx (line (down cy py)) px)) := by
  induction n with
  | zero => simp
  | succ n ih =>
    rw [drawLines_succ, pixel_drawLine _ _ _ hc, ih (by omega)]
    by_cases h : py = spriteRow cy n
    · have e := (spriteRow_eq cy n hcy (by omega) py).1 h
      rw [e, decide_eq_true h]; simp
    · have e : down cy py ≠ n := fun e => h ((spriteRow_eq cy n hcy (by omega) py).2 e)
      have : (down cy py < n + 1) ↔ down cy py < n := by omega
      simp [h, this]

/-- Lines collide exactly when the sprite lights a lit pixel. -/
theorem drawLines_hit_iff (d : Display) (cx cy : Nat) (hc : cx < 64) (hcy : cy < 32) (line : Nat → Byte) (n : Nat) (hn : n ≤ 32) :
    (d.drawLines cy (Fin.ofNat 8 (cx / 8)) (cx % 8) line n).2 = true ↔
      ∃ (px : Fin 64) (py : Fin 32), d.pixel px py = true ∧ down cy py < n ∧ lineLit cx (line (down cy py)) px = true := by
  induction n with
  | zero => simp
  | succ n ih =>
    rw [drawLines_succ, Bool.or_eq_true, ih (by omega), drawLine_hit_iff _ _ _ hc]
    have hrow : down cy (spriteRow cy n) = n := (spriteRow_eq cy n hcy (by omega) _).1 rfl
    constructor
    · rintro (⟨px, py, h1, h2, h3⟩ | ⟨px, h1, h2⟩)
      · exact ⟨px, py, h1, by omega, h3⟩
      · rw [pixel_drawLines d cx cy hc hcy line n (by omega), hrow] at h1
        exact ⟨px, spriteRow cy n, by simpa using h1, by omega, by rw [hrow]; exact h2⟩
    · rintro ⟨px, py, h1, h2, h3⟩
      by_cases h : down cy py = n
      · have e := (spriteRow_eq cy n hcy (by omega) py).2 h
        subst e
        refine .inr ⟨px, ?_, by rw [h] at h3; exact h3⟩
        rw [pixel_drawLines d cx cy hc hcy line n (by omega), hrow]; simpa using h1
      · exact .inl ⟨px, py, h1, by omega, h3⟩

end Sys2Proof.Machine.Display
end

