-- ==== Sys2Proof/Laws/Encoding.lean ====
section
/-!
SUPPORT. The fields of a word built by a format, and a word built back from its fields (30_encoding.md R60, R61).
-/

namespace Sys2Proof

theorem getLsbD_formatNNN (f : Nibble) (a : Addr) (j : Nat) :
    (formatNNN f a).getLsbD j = if j < 12 then a.getLsbD j else f.getLsbD (j - 12) :=
  BitVec.getLsbD_append

theorem getLsbD_formatXNN (f : Nibble) (x : Reg) (nn : Byte) (j : Nat) :
    (formatXNN f x nn).getLsbD j =
      if j < 12 then (if j < 8 then nn.getLsbD j else x.getLsbD (j - 8)) else f.getLsbD (j - 12) := by
  have h : (x ++ nn : Addr).getLsbD j = if j < 8 then nn.getLsbD j else x.getLsbD (j - 8) := BitVec.getLsbD_append
  rw [← h]
  exact getLsbD_formatNNN f (x ++ nn) j

theorem getLsbD_formatXYN (f : Nibble) (x y : Reg) (n : Nibble) (j : Nat) :
    (formatXYN f x y n).getLsbD j =
      if j < 12 then (if j < 8 then (if j < 4 then n.getLsbD j else y.getLsbD (j - 4)) else x.getLsbD (j - 8))
      else f.getLsbD (j - 12) := by
  have h : (y ++ n : Byte).getLsbD j = if j < 4 then n.getLsbD j else y.getLsbD (j - 4) := BitVec.getLsbD_append
  rw [← h]
  exact getLsbD_formatXNN f x (y ++ n) j

theorem getLsbD_wordOfBytes (a b : Byte) (j : Nat) :
    (wordOfBytes a b).getLsbD j = if j < 8 then b.getLsbD j else a.getLsbD (j - 8) :=
  BitVec.getLsbD_append

theorem fieldFamily_formatNNN (f : Nibble) (a : Addr) : fieldFamily (formatNNN f a) = f := by
  ext j hj
  simp [fieldFamily, getLsbD_formatNNN, BitVec.getLsbD_eq_getElem, hj]

theorem fieldNNN_formatNNN (f : Nibble) (a : Addr) : fieldNNN (formatNNN f a) = a := by
  ext j hj
  simp [fieldNNN, getLsbD_formatNNN, BitVec.getLsbD_eq_getElem, hj]

theorem fieldFamily_formatXNN (f : Nibble) (x : Reg) (nn : Byte) : fieldFamily (formatXNN f x nn) = f := by
  ext j hj
  simp [fieldFamily, getLsbD_formatXNN, BitVec.getLsbD_eq_getElem, hj]

theorem fieldX_formatXNN (f : Nibble) (x : Reg) (nn : Byte) : fieldX (formatXNN f x nn) = x := by
  ext j hj
  simp [fieldX, getLsbD_formatXNN, BitVec.getLsbD_eq_getElem, hj]
  omega

theorem fieldNN_formatXNN (f : Nibble) (x : Reg) (nn : Byte) : fieldNN (formatXNN f x nn) = nn := by
  ext j hj
  simp [fieldNN, getLsbD_formatXNN, BitVec.getLsbD_eq_getElem, hj]
  omega

theorem fieldFamily_formatXYN (f : Nibble) (x : Reg) (y : Reg) (n : Nibble) : fieldFamily (formatXYN f x y n) = f := by
  ext j hj
  simp [fieldFamily, getLsbD_formatXYN, BitVec.getLsbD_eq_getElem, hj]

theorem fieldX_formatXYN (f : Nibble) (x : Reg) (y : Reg) (n : Nibble) : fieldX (formatXYN f x y n) = x := by
  ext j hj
  simp [fieldX, getLsbD_formatXYN, BitVec.getLsbD_eq_getElem, hj]
  omega

theorem fieldY_formatXYN (f : Nibble) (x : Reg) (y : Reg) (n : Nibble) : fieldY (formatXYN f x y n) = y := by
  ext j hj
  simp [fieldY, getLsbD_formatXYN, BitVec.getLsbD_eq_getElem, hj, show 4 + j < 12 by omega, show 4 + j < 8 by omega]

theorem fieldN_formatXYN (f : Nibble) (x : Reg) (y : Reg) (n : Nibble) : fieldN (formatXYN f x y n) = n := by
  ext j hj
  simp [fieldN, getLsbD_formatXYN, BitVec.getLsbD_eq_getElem, hj, show j < 12 by omega, show j < 8 by omega]

theorem formatNNN_fields (w : Word) : formatNNN (fieldFamily w) (fieldNNN w) = w := by
  apply BitVec.eq_of_getLsbD_eq
  intro j hj
  rw [getLsbD_formatNNN]
  interval_cases j <;> simp [fieldFamily, fieldNNN]

theorem formatXNN_fields (w : Word) : formatXNN (fieldFamily w) (fieldX w) (fieldNN w) = w := by
  apply BitVec.eq_of_getLsbD_eq
  intro j hj
  rw [getLsbD_formatXNN]
  interval_cases j <;> simp [fieldFamily, fieldX, fieldNN]

theorem formatXYN_fields (w : Word) : formatXYN (fieldFamily w) (fieldX w) (fieldY w) (fieldN w) = w := by
  apply BitVec.eq_of_getLsbD_eq
  intro j hj
  rw [getLsbD_formatXYN]
  interval_cases j <;> simp [fieldFamily, fieldX, fieldY, fieldN]

/-- The two bytes of a word make the word again (20_memory.md R40). -/
theorem wordOfBytes_bytes (w : Word) : wordOfBytes (firstByte w) (secondByte w) = w := by
  apply BitVec.eq_of_getLsbD_eq
  intro j hj
  rw [getLsbD_wordOfBytes]
  interval_cases j <;> simp [firstByte, secondByte]

/-! ### The families that sub-decode: the instruction is well formed, its word is the word read, and a selector no row
names gives the no-op row -/

theorem eq_ofNat_of_toNat {w k : Nat} {n : BitVec w} (h : n.toNat = k) : n = BitVec.ofNat w k := by
  subst h; simp

theorem decodeFamily0_spec (a : Addr) :
    (decodeFamily0 a).wf = true ∧ encode (decodeFamily0 a) = formatNNN 0x0#4 a ∧
      ((Instr.sys a).wf = true → decodeFamily0 a = .sys a) := by
  unfold decodeFamily0
  split
  · subst a; exact ⟨rfl, by decide, by decide⟩
  · split
    · subst a; exact ⟨rfl, by decide, by decide⟩
    · rename_i h1 h2
      exact ⟨by simp [Instr.wf, h1, h2], rfl, fun _ => rfl⟩

theorem decodeFamily5_spec (x y : Reg) (n : Nibble) :
    (decodeFamily5 x y n).wf = true ∧ encode (decodeFamily5 x y n) = formatXYN 0x5#4 x y n ∧
      ((Instr.nop5 x y n).wf = true → decodeFamily5 x y n = .nop5 x y n) := by
  unfold decodeFamily5
  split
  · subst n; exact ⟨rfl, rfl, by simp [Instr.wf]⟩
  · rename_i h; exact ⟨by simp [Instr.wf, h], rfl, fun _ => rfl⟩

theorem decodeFamily9_spec (x y : Reg) (n : Nibble) :
    (decodeFamily9 x y n).wf = true ∧ encode (decodeFamily9 x y n) = formatXYN 0x9#4 x y n ∧
      ((Instr.nop9 x y n).wf = true → decodeFamily9 x y n = .nop9 x y n) := by
  unfold decodeFamily9
  split
  · subst n; exact ⟨rfl, rfl, by simp [Instr.wf]⟩
  · rename_i h; exact ⟨by simp [Instr.wf, h], rfl, fun _ => rfl⟩

theorem decodeFamily8_spec (x y : Reg) (n : Nibble) :
    (decodeFamily8 x y n).wf = true ∧ encode (decodeFamily8 x y n) = formatXYN 0x8#4 x y n ∧
      ((Instr.nop8 x y n).wf = true → decodeFamily8 x y n = .nop8 x y n) := by
  have selectors : ∀ m : Nibble, family8Selectors.contains m = true →
      m.toNat = 0 ∨ m.toNat = 1 ∨ m.toNat = 2 ∨ m.toNat = 3 ∨ m.toNat = 4 ∨ m.toNat = 5 ∨ m.toNat = 6 ∨ m.toNat = 7 ∨ m.toNat = 14 := by decide
  unfold decodeFamily8
  split
  case h_10 h0 h1 h2 h3 h4 h5 h6 h7 h8 =>
    refine ⟨?_, rfl, fun _ => rfl⟩
    simp only [Instr.wf, Bool.not_eq_true', Bool.eq_false_iff]
    intro hc
    rcases selectors n hc with h | h | h | h | h | h | h | h | h <;> contradiction
  all_goals
    rename_i h
    obtain rfl := eq_ofNat_of_toNat h
    exact ⟨rfl, rfl, by simp [Instr.wf, family8Selectors]⟩

theorem decodeFamilyE_spec (x : Reg) (nn : Byte) :
    (decodeFamilyE x nn).wf = true ∧ encode (decodeFamilyE x nn) = formatXNN 0xE#4 x nn ∧
      ((Instr.nopE x nn).wf = true → decodeFamilyE x nn = .nopE x nn) := by
  have selectors : ∀ m : Byte, familyESelectors.contains m = true →
      m.toNat = 158 ∨ m.toNat = 161 := by decide
  unfold decodeFamilyE
  split
  case h_3 h0 h1 =>
    refine ⟨?_, rfl, fun _ => rfl⟩
    simp only [Instr.wf, Bool.not_eq_true', Bool.eq_false_iff]
    intro hc
    rcases selectors nn hc with h | h <;> contradiction
  all_goals
    rename_i h
    obtain rfl := eq_ofNat_of_toNat h
    exact ⟨rfl, rfl, by simp [Instr.wf, familyESelectors]⟩

theorem decodeFamilyF_spec (x : Reg) (nn : Byte) :
    (decodeFamilyF x nn).wf = true ∧ encode (decodeFamilyF x nn) = formatXNN 0xF#4 x nn ∧
      ((Instr.nopF x nn).wf = true → decodeFamilyF x nn = .nopF x nn) := by
  have selectors : ∀ m : Byte, familyFSelectors.contains m = true →
      m.toNat = 7 ∨ m.toNat = 10 ∨ m.toNat = 21 ∨ m.toNat = 24 ∨ m.toNat = 30 ∨ m.toNat = 41 ∨ m.toNat = 51 ∨ m.toNat = 85 ∨ m.toNat = 101 := by decide
  unfold decodeFamilyF
  split
  case h_10 h0 h1 h2 h3 h4 h5 h6 h7 h8 =>
    refine ⟨?_, rfl, fun _ => rfl⟩
    simp only [Instr.wf, Bool.not_eq_true', Bool.eq_false_iff]
    intro hc
    rcases selectors nn hc with h | h | h | h | h | h | h | h | h <;> contradiction
  all_goals
    rename_i h
    obtain rfl := eq_ofNat_of_toNat h
    exact ⟨rfl, rfl, by simp [Instr.wf, familyFSelectors]⟩

/-! ### A format under the masks of spec/opcode_table.json -/

theorem formatNNN_and (f : Nibble) (a : Addr) : formatNNN f a &&& 0xF000#16 = f ++ 0#12 := by
  have : 0xF000#16 = 0xF#4 ++ 0x000#12 := by decide
  have h : f &&& 0xF#4 = f := BitVec.and_allOnes
  rw [this, formatNNN, BitVec.and_append]
  simp [h]

theorem formatXNN_and (f : Nibble) (x : Reg) (nn : Byte) : formatXNN f x nn &&& 0xF000#16 = f ++ 0#12 :=
  formatNNN_and f (x ++ nn)

theorem formatXYN_and (f : Nibble) (x y : Reg) (n : Nibble) : formatXYN f x y n &&& 0xF000#16 = f ++ 0#12 :=
  formatNNN_and f (x ++ (y ++ n))

theorem formatXNN_andSelector (f : Nibble) (x : Reg) (nn : Byte) :
    formatXNN f x nn &&& 0xF0FF#16 = f ++ (0#4 ++ nn) := by
  have : 0xF0FF#16 = 0xF#4 ++ (0x0#4 ++ 0xFF#8) := by decide
  rw [this, formatXNN, BitVec.and_append, BitVec.and_append]
  have h1 : f &&& 0xF#4 = f := BitVec.and_allOnes
  have h2 : nn &&& 0xFF#8 = nn := BitVec.and_allOnes
  simp [h1, h2]

theorem formatXYN_andSelector (f : Nibble) (x y : Reg) (n : Nibble) :
    formatXYN f x y n &&& 0xF00F#16 = f ++ (0#4 ++ (0#4 ++ n)) := by
  have : 0xF00F#16 = 0xF#4 ++ (0x0#4 ++ (0x0#4 ++ 0xF#4)) := by decide
  rw [this, formatXYN, BitVec.and_append, BitVec.and_append, BitVec.and_append]
  have h1 : f &&& 0xF#4 = f := BitVec.and_allOnes
  have h2 : n &&& 0xF#4 = n := BitVec.and_allOnes
  simp [h1, h2]

end Sys2Proof
end

