-- ==== Sys2Proof/Laws/Memory.lean ====
section
/-!
SUPPORT. The laws of Memory: a read after a write, and the canonical form kept by every operation.
-/

namespace Sys2Proof.Machine.Memory

theorem read_erase (m : Memory) (a c : Nat) :
    (m.erase a).read c = if c = a then unlisted c else m.read c := by
  induction m with
  | nil => simp [erase, read]
  | cons cell rest ih =>
    obtain ⟨k, b⟩ := cell
    rw [erase] at ih ⊢
    by_cases hk : k = a
    · subst hk
      simp only [List.filter, bne_self_eq_false, ih]
      by_cases hc : c = k
      · simp [hc]
      · simp [hc, read, Ne.symm hc]
    · have : (k != a) = true := by simp [hk]
      simp only [List.filter, this, read, ih]
      by_cases hkc : k = c
      · subst hkc; simp [hk]
      · simp [hkc]

theorem read_insert_same (m : Memory) (a : Nat) (b : Byte) (h : ∀ c ∈ m, c.1 ≠ a) :
    (m.insert a b).read a = b := by
  induction m with
  | nil => simp [insert, read]
  | cons cell rest ih =>
    obtain ⟨k, b'⟩ := cell
    have hk : k ≠ a := h (k, b') (by simp)
    have hr : ∀ c ∈ rest, c.1 ≠ a := fun c hc => h c (by simp [hc])
    by_cases hlt : a < k
    · simp [insert, hlt, read]
    · simp [insert, hlt, read, hk, ih hr]

theorem read_insert_ne (m : Memory) (a c : Nat) (b : Byte) (h : c ≠ a) :
    (m.insert a b).read c = m.read c := by
  induction m with
  | nil => simp [insert, read, Ne.symm h]
  | cons cell rest ih =>
    obtain ⟨k, b'⟩ := cell
    by_cases hlt : a < k
    · simp [insert, hlt, read, Ne.symm h]
    · simp [insert, hlt, read, ih]

theorem ne_of_mem_erase {m : Memory} {a : Nat} {c : Host.Cell} (h : c ∈ m.erase a) : c.1 ≠ a := by
  simp [erase] at h; exact h.2

/-- A read after a write gives the byte written at its address and what was there anywhere else. -/
theorem read_write (m : Memory) (a c : Nat) (b : Byte) :
    (m.write a b).read c = if c = a then b else m.read c := by
  by_cases hb : b = unlisted a
  · simp only [write, hb, if_true, read_erase]
    by_cases hc : c = a <;> simp [hc]
  · simp only [write, hb, if_false]
    by_cases hc : c = a
    · subst hc; simp [read_insert_same _ _ _ (fun _ => ne_of_mem_erase)]
    · simp [hc, read_insert_ne _ _ _ _ hc, read_erase]

@[simp] theorem read_write_same (m : Memory) (a : Nat) (b : Byte) : (m.write a b).read a = b := by
  simp [read_write]

theorem read_write_ne (m : Memory) {a c : Nat} (b : Byte) (h : c ≠ a) : (m.write a b).read c = m.read c := by
  simp [read_write, h]

theorem wf_cons (k : Nat) (b : Byte) (rest : Memory) :
    wf ((k, b) :: rest) = true ↔
      k < Config.memSize ∧ b ≠ unlisted k ∧ (∀ c ∈ rest, k < c.1) ∧ wf rest = true := by
  simp [wf, and_assoc]

theorem wf_erase {m : Memory} (a : Nat) (h : m.wf = true) : (m.erase a).wf = true := by
  induction m with
  | nil => rfl
  | cons cell rest ih =>
    obtain ⟨k, b⟩ := cell
    obtain ⟨hk, hb, hr, hw⟩ := (wf_cons k b rest).1 h
    by_cases hka : k = a
    · simpa [erase, hka] using ih hw
    · have he : erase ((k, b) :: rest) a = (k, b) :: erase rest a := by simp [erase, hka]
      rw [he, wf_cons]
      refine ⟨hk, hb, fun c hc => hr c ?_, ih hw⟩
      simp [erase] at hc; exact hc.1

theorem mem_insert {m : Memory} {a : Nat} {b : Byte} {c : Host.Cell} (h : c ∈ m.insert a b) :
    c = (a, b) ∨ c ∈ m := by
  induction m with
  | nil => simpa [insert] using h
  | cons cell rest ih =>
    obtain ⟨k, b'⟩ := cell
    by_cases hlt : a < k
    · simpa [insert, hlt] using h
    · simp [insert, hlt] at h
      rcases h with h | h
      · simp [h]
      · rcases ih h with h | h <;> simp [h]

theorem wf_insert {m : Memory} {a : Nat} {b : Byte} (h : m.wf = true) (ha : a < Config.memSize)
    (hb : b ≠ unlisted a) (hne : ∀ c ∈ m, c.1 ≠ a) : (m.insert a b).wf = true := by
  induction m with
  | nil => simp [insert, wf, ha, hb]
  | cons cell rest ih =>
    obtain ⟨k, b'⟩ := cell
    obtain ⟨hk, hb', hr, hw⟩ := (wf_cons k b' rest).1 h
    have hka : k ≠ a := hne (k, b') (by simp)
    by_cases hlt : a < k
    · rw [insert, if_pos hlt, wf_cons]
      refine ⟨ha, hb, fun c hc => ?_, h⟩
      rcases List.mem_cons.1 hc with rfl | hc
      · exact hlt
      · exact lt_trans hlt (hr c hc)
    · rw [insert, if_neg hlt, wf_cons]
      refine ⟨hk, hb', fun c hc => ?_, ih hw (fun c hc => hne c (by simp [hc]))⟩
      rcases mem_insert hc with rfl | hc
      · simp only; omega
      · exact hr c hc

/-- Every write inside Memory keeps the canonical form. -/
theorem wf_write {m : Memory} {a : Nat} (b : Byte) (h : m.wf = true) (ha : a < Config.memSize) :
    (m.write a b).wf = true := by
  by_cases hb : b = unlisted a
  · simp [write, hb, wf_erase a h]
  · simp [write, hb, wf_insert (wf_erase a h) ha hb (fun _ => ne_of_mem_erase)]

/-- Two canonical memories that read the same everywhere are equal data. -/
theorem eq_of_read_eq {m n : Memory} (hm : m.wf = true) (hn : n.wf = true) (h : ∀ a, m.read a = n.read a) : m = n := by
  have read_below : ∀ (l : Memory) (a : Nat), (∀ c ∈ l, a < c.1) → l.read a = unlisted a := by
    intro l a hl
    induction l with
    | nil => rfl
    | cons cell rest ih =>
      obtain ⟨k, b⟩ := cell
      have : a < k := hl (k, b) (by simp)
      simp [read, Nat.ne_of_gt this, ih (fun c hc => hl c (by simp [hc]))]
  induction m generalizing n with
  | nil =>
    cases n with
    | nil => rfl
    | cons cell rest =>
      obtain ⟨k, b⟩ := cell
      have := h k
      simp [read] at this
      exact absurd this.symm ((wf_cons k b rest).1 hn).2.1
  | cons cell rest ih =>
    obtain ⟨k, b⟩ := cell
    obtain ⟨-, hb, hr, hw⟩ := (wf_cons k b rest).1 hm
    cases n with
    | nil =>
      have := h k
      simp [read] at this
      exact absurd this hb
    | cons cell' rest' =>
      obtain ⟨k', b'⟩ := cell'
      obtain ⟨-, hb', hr', hw'⟩ := (wf_cons k' b' rest').1 hn
      have hk : k = k' := by
        rcases lt_trichotomy k k' with hlt | heq | hlt
        · have := h k
          simp [read, Nat.ne_of_gt hlt, read_below rest' k (fun c hc => lt_trans hlt (hr' c hc))] at this
          exact absurd this hb
        · exact heq
        · have := h k'
          simp [read, Nat.ne_of_gt hlt, read_below rest k' (fun c hc => lt_trans hlt (hr c hc))] at this
          exact absurd this.symm hb'
      subst hk
      have hbb : b = b' := by simpa [read] using h k
      subst hbb
      rw [ih hw hw' fun a => ?_]
      by_cases ha : k = a
      · subst ha; rw [read_below _ _ hr, read_below _ _ hr']
      · simpa [read, ha] using h a

end Sys2Proof.Machine.Memory
end

