-- ==== Sys2Proof/Laws/State.lean ====
section
/-!
SUPPORT. Every field of State after every named update, and every accessor of the parts an update leaves alone: all true
by rfl, so that no later proof unfolds a record update.
-/

namespace Sys2Proof.Machine

variable (s : State)

/-! ### setReg -/

@[simp] theorem State.setReg_mem (r : Reg) (b : Byte) : (s.setReg r b).mem = s.mem := rfl
@[simp] theorem State.setReg_v (r : Reg) (b : Byte) : (s.setReg r b).v = s.v.set r.toNat b r.isLt := rfl
@[simp] theorem State.setReg_i (r : Reg) (b : Byte) : (s.setReg r b).i = s.i := rfl
@[simp] theorem State.setReg_pc (r : Reg) (b : Byte) : (s.setReg r b).pc = s.pc := rfl
@[simp] theorem State.setReg_stack (r : Reg) (b : Byte) : (s.setReg r b).stack = s.stack := rfl
@[simp] theorem State.setReg_dt (r : Reg) (b : Byte) : (s.setReg r b).dt = s.dt := rfl
@[simp] theorem State.setReg_st (r : Reg) (b : Byte) : (s.setReg r b).st = s.st := rfl
@[simp] theorem State.setReg_disp (r : Reg) (b : Byte) : (s.setReg r b).disp = s.disp := rfl
@[simp] theorem State.setReg_key (r : Reg) (b : Byte) : (s.setReg r b).key = s.key := rfl
@[simp] theorem State.setReg_run (r : Reg) (b : Byte) : (s.setReg r b).run = s.run := rfl
@[simp] theorem State.setReg_pending (r : Reg) (b : Byte) : (s.setReg r b).pending = s.pending := rfl
@[simp] theorem State.setReg_draws (r : Reg) (b : Byte) : (s.setReg r b).draws = s.draws := rfl
@[simp] theorem State.setReg_agenda (r : Reg) (b : Byte) : (s.setReg r b).agenda = s.agenda := rfl
@[simp] theorem State.setReg_readByte (r : Reg) (b : Byte) (c : Addr) : (s.setReg r b).readByte c = s.readByte c := rfl
@[simp] theorem State.setReg_pressed (r : Reg) (b : Byte) (q : Nibble) : (s.setReg r b).pressed q = s.pressed q := rfl
@[simp] theorem State.setReg_dataAddr (r : Reg) (b : Byte) (n : Nat) : (s.setReg r b).dataAddr n = s.dataAddr n := rfl
@[simp] theorem State.setReg_canFetch (r : Reg) (b : Byte) : (s.setReg r b).canFetch = s.canFetch := rfl
@[simp] theorem State.setReg_byteAt (r : Reg) (b : Byte) (n : Nat) : (s.setReg r b).byteAt n = s.byteAt n := rfl
@[simp] theorem State.setReg_fetchWord (r : Reg) (b : Byte) : (s.setReg r b).fetchWord = s.fetchWord := rfl
@[simp] theorem State.setReg_drawnByte (r : Reg) (b : Byte) : (s.setReg r b).drawnByte = s.drawnByte := rfl
@[simp] theorem State.setReg_spriteLine (r : Reg) (b : Byte) (n : Nat) : (s.setReg r b).spriteLine n = s.spriteLine n := rfl

/-! ### writeByte -/

@[simp] theorem State.writeByte_mem (a : Addr) (b : Byte) : (s.writeByte a b).mem = s.mem.write a.toNat b := rfl
@[simp] theorem State.writeByte_v (a : Addr) (b : Byte) : (s.writeByte a b).v = s.v := rfl
@[simp] theorem State.writeByte_i (a : Addr) (b : Byte) : (s.writeByte a b).i = s.i := rfl
@[simp] theorem State.writeByte_pc (a : Addr) (b : Byte) : (s.writeByte a b).pc = s.pc := rfl
@[simp] theorem State.writeByte_stack (a : Addr) (b : Byte) : (s.writeByte a b).stack = s.stack := rfl
@[simp] theorem State.writeByte_dt (a : Addr) (b : Byte) : (s.writeByte a b).dt = s.dt := rfl
@[simp] theorem State.writeByte_st (a : Addr) (b : Byte) : (s.writeByte a b).st = s.st := rfl
@[simp] theorem State.writeByte_disp (a : Addr) (b : Byte) : (s.writeByte a b).disp = s.disp := rfl
@[simp] theorem State.writeByte_key (a : Addr) (b : Byte) : (s.writeByte a b).key = s.key := rfl
@[simp] theorem State.writeByte_run (a : Addr) (b : Byte) : (s.writeByte a b).run = s.run := rfl
@[simp] theorem State.writeByte_pending (a : Addr) (b : Byte) : (s.writeByte a b).pending = s.pending := rfl
@[simp] theorem State.writeByte_draws (a : Addr) (b : Byte) : (s.writeByte a b).draws = s.draws := rfl
@[simp] theorem State.writeByte_agenda (a : Addr) (b : Byte) : (s.writeByte a b).agenda = s.agenda := rfl
@[simp] theorem State.writeByte_reg (a : Addr) (b : Byte) (q : Reg) : (s.writeByte a b).reg q = s.reg q := rfl
@[simp] theorem State.writeByte_pressed (a : Addr) (b : Byte) (q : Nibble) : (s.writeByte a b).pressed q = s.pressed q := rfl
@[simp] theorem State.writeByte_dataAddr (a : Addr) (b : Byte) (n : Nat) : (s.writeByte a b).dataAddr n = s.dataAddr n := rfl
@[simp] theorem State.writeByte_canFetch (a : Addr) (b : Byte) : (s.writeByte a b).canFetch = s.canFetch := rfl
@[simp] theorem State.writeByte_drawnByte (a : Addr) (b : Byte) : (s.writeByte a b).drawnByte = s.drawnByte := rfl

/-! ### setKey -/

@[simp] theorem State.setKey_mem (k : Nibble) (p : Bool) : (s.setKey k p).mem = s.mem := rfl
@[simp] theorem State.setKey_v (k : Nibble) (p : Bool) : (s.setKey k p).v = s.v := rfl
@[simp] theorem State.setKey_i (k : Nibble) (p : Bool) : (s.setKey k p).i = s.i := rfl
@[simp] theorem State.setKey_pc (k : Nibble) (p : Bool) : (s.setKey k p).pc = s.pc := rfl
@[simp] theorem State.setKey_stack (k : Nibble) (p : Bool) : (s.setKey k p).stack = s.stack := rfl
@[simp] theorem State.setKey_dt (k : Nibble) (p : Bool) : (s.setKey k p).dt = s.dt := rfl
@[simp] theorem State.setKey_st (k : Nibble) (p : Bool) : (s.setKey k p).st = s.st := rfl
@[simp] theorem State.setKey_disp (k : Nibble) (p : Bool) : (s.setKey k p).disp = s.disp := rfl
@[simp] theorem State.setKey_key (k : Nibble) (p : Bool) : (s.setKey k p).key = s.key.set k.toNat p k.isLt := rfl
@[simp] theorem State.setKey_run (k : Nibble) (p : Bool) : (s.setKey k p).run = s.run := rfl
@[simp] theorem State.setKey_pending (k : Nibble) (p : Bool) : (s.setKey k p).pending = s.pending := rfl
@[simp] theorem State.setKey_draws (k : Nibble) (p : Bool) : (s.setKey k p).draws = s.draws := rfl
@[simp] theorem State.setKey_agenda (k : Nibble) (p : Bool) : (s.setKey k p).agenda = s.agenda := rfl
@[simp] theorem State.setKey_reg (k : Nibble) (p : Bool) (q : Reg) : (s.setKey k p).reg q = s.reg q := rfl
@[simp] theorem State.setKey_readByte (k : Nibble) (p : Bool) (c : Addr) : (s.setKey k p).readByte c = s.readByte c := rfl
@[simp] theorem State.setKey_dataAddr (k : Nibble) (p : Bool) (n : Nat) : (s.setKey k p).dataAddr n = s.dataAddr n := rfl
@[simp] theorem State.setKey_canFetch (k : Nibble) (p : Bool) : (s.setKey k p).canFetch = s.canFetch := rfl
@[simp] theorem State.setKey_byteAt (k : Nibble) (p : Bool) (n : Nat) : (s.setKey k p).byteAt n = s.byteAt n := rfl
@[simp] theorem State.setKey_fetchWord (k : Nibble) (p : Bool) : (s.setKey k p).fetchWord = s.fetchWord := rfl
@[simp] theorem State.setKey_drawnByte (k : Nibble) (p : Bool) : (s.setKey k p).drawnByte = s.drawnByte := rfl
@[simp] theorem State.setKey_spriteLine (k : Nibble) (p : Bool) (n : Nat) : (s.setKey k p).spriteLine n = s.spriteLine n := rfl

/-! ### setI -/

@[simp] theorem State.setI_mem (a : Addr) : (s.setI a).mem = s.mem := rfl
@[simp] theorem State.setI_v (a : Addr) : (s.setI a).v = s.v := rfl
@[simp] theorem State.setI_i (a : Addr) : (s.setI a).i = a := rfl
@[simp] theorem State.setI_pc (a : Addr) : (s.setI a).pc = s.pc := rfl
@[simp] theorem State.setI_stack (a : Addr) : (s.setI a).stack = s.stack := rfl
@[simp] theorem State.setI_dt (a : Addr) : (s.setI a).dt = s.dt := rfl
@[simp] theorem State.setI_st (a : Addr) : (s.setI a).st = s.st := rfl
@[simp] theorem State.setI_disp (a : Addr) : (s.setI a).disp = s.disp := rfl
@[simp] theorem State.setI_key (a : Addr) : (s.setI a).key = s.key := rfl
@[simp] theorem State.setI_run (a : Addr) : (s.setI a).run = s.run := rfl
@[simp] theorem State.setI_pending (a : Addr) : (s.setI a).pending = s.pending := rfl
@[simp] theorem State.setI_draws (a : Addr) : (s.setI a).draws = s.draws := rfl
@[simp] theorem State.setI_agenda (a : Addr) : (s.setI a).agenda = s.agenda := rfl
@[simp] theorem State.setI_reg (a : Addr) (q : Reg) : (s.setI a).reg q = s.reg q := rfl
@[simp] theorem State.setI_readByte (a : Addr) (c : Addr) : (s.setI a).readByte c = s.readByte c := rfl
@[simp] theorem State.setI_pressed (a : Addr) (q : Nibble) : (s.setI a).pressed q = s.pressed q := rfl
@[simp] theorem State.setI_canFetch (a : Addr) : (s.setI a).canFetch = s.canFetch := rfl
@[simp] theorem State.setI_byteAt (a : Addr) (n : Nat) : (s.setI a).byteAt n = s.byteAt n := rfl
@[simp] theorem State.setI_fetchWord (a : Addr) : (s.setI a).fetchWord = s.fetchWord := rfl
@[simp] theorem State.setI_drawnByte (a : Addr) : (s.setI a).drawnByte = s.drawnByte := rfl

/-! ### setPc -/

@[simp] theorem State.setPc_mem (a : PcVal) : (s.setPc a).mem = s.mem := rfl
@[simp] theorem State.setPc_v (a : PcVal) : (s.setPc a).v = s.v := rfl
@[simp] theorem State.setPc_i (a : PcVal) : (s.setPc a).i = s.i := rfl
@[simp] theorem State.setPc_pc (a : PcVal) : (s.setPc a).pc = a := rfl
@[simp] theorem State.setPc_stack (a : PcVal) : (s.setPc a).stack = s.stack := rfl
@[simp] theorem State.setPc_dt (a : PcVal) : (s.setPc a).dt = s.dt := rfl
@[simp] theorem State.setPc_st (a : PcVal) : (s.setPc a).st = s.st := rfl
@[simp] theorem State.setPc_disp (a : PcVal) : (s.setPc a).disp = s.disp := rfl
@[simp] theorem State.setPc_key (a : PcVal) : (s.setPc a).key = s.key := rfl
@[simp] theorem State.setPc_run (a : PcVal) : (s.setPc a).run = s.run := rfl
@[simp] theorem State.setPc_pending (a : PcVal) : (s.setPc a).pending = s.pending := rfl
@[simp] theorem State.setPc_draws (a : PcVal) : (s.setPc a).draws = s.draws := rfl
@[simp] theorem State.setPc_agenda (a : PcVal) : (s.setPc a).agenda = s.agenda := rfl
@[simp] theorem State.setPc_reg (a : PcVal) (q : Reg) : (s.setPc a).reg q = s.reg q := rfl
@[simp] theorem State.setPc_readByte (a : PcVal) (c : Addr) : (s.setPc a).readByte c = s.readByte c := rfl
@[simp] theorem State.setPc_pressed (a : PcVal) (q : Nibble) : (s.setPc a).pressed q = s.pressed q := rfl
@[simp] theorem State.setPc_dataAddr (a : PcVal) (n : Nat) : (s.setPc a).dataAddr n = s.dataAddr n := rfl
@[simp] theorem State.setPc_byteAt (a : PcVal) (n : Nat) : (s.setPc a).byteAt n = s.byteAt n := rfl
@[simp] theorem State.setPc_drawnByte (a : PcVal) : (s.setPc a).drawnByte = s.drawnByte := rfl
@[simp] theorem State.setPc_spriteLine (a : PcVal) (n : Nat) : (s.setPc a).spriteLine n = s.spriteLine n := rfl

/-! ### setDt -/

@[simp] theorem State.setDt_mem (b : Byte) : (s.setDt b).mem = s.mem := rfl
@[simp] theorem State.setDt_v (b : Byte) : (s.setDt b).v = s.v := rfl
@[simp] theorem State.setDt_i (b : Byte) : (s.setDt b).i = s.i := rfl
@[simp] theorem State.setDt_pc (b : Byte) : (s.setDt b).pc = s.pc := rfl
@[simp] theorem State.setDt_stack (b : Byte) : (s.setDt b).stack = s.stack := rfl
@[simp] theorem State.setDt_dt (b : Byte) : (s.setDt b).dt = b := rfl
@[simp] theorem State.setDt_st (b : Byte) : (s.setDt b).st = s.st := rfl
@[simp] theorem State.setDt_disp (b : Byte) : (s.setDt b).disp = s.disp := rfl
@[simp] theorem State.setDt_key (b : Byte) : (s.setDt b).key = s.key := rfl
@[simp] theorem State.setDt_run (b : Byte) : (s.setDt b).run = s.run := rfl
@[simp] theorem State.setDt_pending (b : Byte) : (s.setDt b).pending = s.pending := rfl
@[simp] theorem State.setDt_draws (b : Byte) : (s.setDt b).draws = s.draws := rfl
@[simp] theorem State.setDt_agenda (b : Byte) : (s.setDt b).agenda = s.agenda := rfl
@[simp] theorem State.setDt_reg (b : Byte) (q : Reg) : (s.setDt b).reg q = s.reg q := rfl
@[simp] theorem State.setDt_readByte (b : Byte) (c : Addr) : (s.setDt b).readByte c = s.readByte c := rfl
@[simp] theorem State.setDt_pressed (b : Byte) (q : Nibble) : (s.setDt b).pressed q = s.pressed q := rfl
@[simp] theorem State.setDt_dataAddr (b : Byte) (n : Nat) : (s.setDt b).dataAddr n = s.dataAddr n := rfl
@[simp] theorem State.setDt_canFetch (b : Byte) : (s.setDt b).canFetch = s.canFetch := rfl
@[simp] theorem State.setDt_byteAt (b : Byte) (n : Nat) : (s.setDt b).byteAt n = s.byteAt n := rfl
@[simp] theorem State.setDt_fetchWord (b : Byte) : (s.setDt b).fetchWord = s.fetchWord := rfl
@[simp] theorem State.setDt_drawnByte (b : Byte) : (s.setDt b).drawnByte = s.drawnByte := rfl
@[simp] theorem State.setDt_spriteLine (b : Byte) (n : Nat) : (s.setDt b).spriteLine n = s.spriteLine n := rfl

/-! ### setSt -/

@[simp] theorem State.setSt_mem (b : Byte) : (s.setSt b).mem = s.mem := rfl
@[simp] theorem State.setSt_v (b : Byte) : (s.setSt b).v = s.v := rfl
@[simp] theorem State.setSt_i (b : Byte) : (s.setSt b).i = s.i := rfl
@[simp] theorem State.setSt_pc (b : Byte) : (s.setSt b).pc = s.pc := rfl
@[simp] theorem State.setSt_stack (b : Byte) : (s.setSt b).stack = s.stack := rfl
@[simp] theorem State.setSt_dt (b : Byte) : (s.setSt b).dt = s.dt := rfl
@[simp] theorem State.setSt_st (b : Byte) : (s.setSt b).st = b := rfl
@[simp] theorem State.setSt_disp (b : Byte) : (s.setSt b).disp = s.disp := rfl
@[simp] theorem State.setSt_key (b : Byte) : (s.setSt b).key = s.key := rfl
@[simp] theorem State.setSt_run (b : Byte) : (s.setSt b).run = s.run := rfl
@[simp] theorem State.setSt_pending (b : Byte) : (s.setSt b).pending = s.pending := rfl
@[simp] theorem State.setSt_draws (b : Byte) : (s.setSt b).draws = s.draws := rfl
@[simp] theorem State.setSt_agenda (b : Byte) : (s.setSt b).agenda = s.agenda := rfl
@[simp] theorem State.setSt_reg (b : Byte) (q : Reg) : (s.setSt b).reg q = s.reg q := rfl
@[simp] theorem State.setSt_readByte (b : Byte) (c : Addr) : (s.setSt b).readByte c = s.readByte c := rfl
@[simp] theorem State.setSt_pressed (b : Byte) (q : Nibble) : (s.setSt b).pressed q = s.pressed q := rfl
@[simp] theorem State.setSt_dataAddr (b : Byte) (n : Nat) : (s.setSt b).dataAddr n = s.dataAddr n := rfl
@[simp] theorem State.setSt_canFetch (b : Byte) : (s.setSt b).canFetch = s.canFetch := rfl
@[simp] theorem State.setSt_byteAt (b : Byte) (n : Nat) : (s.setSt b).byteAt n = s.byteAt n := rfl
@[simp] theorem State.setSt_fetchWord (b : Byte) : (s.setSt b).fetchWord = s.fetchWord := rfl
@[simp] theorem State.setSt_drawnByte (b : Byte) : (s.setSt b).drawnByte = s.drawnByte := rfl
@[simp] theorem State.setSt_spriteLine (b : Byte) (n : Nat) : (s.setSt b).spriteLine n = s.spriteLine n := rfl

/-! ### setDisp -/

@[simp] theorem State.setDisp_mem (d : Display) : (s.setDisp d).mem = s.mem := rfl
@[simp] theorem State.setDisp_v (d : Display) : (s.setDisp d).v = s.v := rfl
@[simp] theorem State.setDisp_i (d : Display) : (s.setDisp d).i = s.i := rfl
@[simp] theorem State.setDisp_pc (d : Display) : (s.setDisp d).pc = s.pc := rfl
@[simp] theorem State.setDisp_stack (d : Display) : (s.setDisp d).stack = s.stack := rfl
@[simp] theorem State.setDisp_dt (d : Display) : (s.setDisp d).dt = s.dt := rfl
@[simp] theorem State.setDisp_st (d : Display) : (s.setDisp d).st = s.st := rfl
@[simp] theorem State.setDisp_disp (d : Display) : (s.setDisp d).disp = d := rfl
@[simp] theorem State.setDisp_key (d : Display) : (s.setDisp d).key = s.key := rfl
@[simp] theorem State.setDisp_run (d : Display) : (s.setDisp d).run = s.run := rfl
@[simp] theorem State.setDisp_pending (d : Display) : (s.setDisp d).pending = s.pending := rfl
@[simp] theorem State.setDisp_draws (d : Display) : (s.setDisp d).draws = s.draws := rfl
@[simp] theorem State.setDisp_agenda (d : Display) : (s.setDisp d).agenda = s.agenda := rfl
@[simp] theorem State.setDisp_reg (d : Display) (q : Reg) : (s.setDisp d).reg q = s.reg q := rfl
@[simp] theorem State.setDisp_readByte (d : Display) (c : Addr) : (s.setDisp d).readByte c = s.readByte c := rfl
@[simp] theorem State.setDisp_pressed (d : Display) (q : Nibble) : (s.setDisp d).pressed q = s.pressed q := rfl
@[simp] theorem State.setDisp_dataAddr (d : Display) (n : Nat) : (s.setDisp d).dataAddr n = s.dataAddr n := rfl
@[simp] theorem State.setDisp_canFetch (d : Display) : (s.setDisp d).canFetch = s.canFetch := rfl
@[simp] theorem State.setDisp_byteAt (d : Display) (n : Nat) : (s.setDisp d).byteAt n = s.byteAt n := rfl
@[simp] theorem State.setDisp_fetchWord (d : Display) : (s.setDisp d).fetchWord = s.fetchWord := rfl
@[simp] theorem State.setDisp_drawnByte (d : Display) : (s.setDisp d).drawnByte = s.drawnByte := rfl
@[simp] theorem State.setDisp_spriteLine (d : Display) (n : Nat) : (s.setDisp d).spriteLine n = s.spriteLine n := rfl

/-! ### beginWait -/

@[simp] theorem State.beginWait_mem (x : Reg) : (s.beginWait x).mem = s.mem := rfl
@[simp] theorem State.beginWait_v (x : Reg) : (s.beginWait x).v = s.v := rfl
@[simp] theorem State.beginWait_i (x : Reg) : (s.beginWait x).i = s.i := rfl
@[simp] theorem State.beginWait_pc (x : Reg) : (s.beginWait x).pc = s.pc := rfl
@[simp] theorem State.beginWait_stack (x : Reg) : (s.beginWait x).stack = s.stack := rfl
@[simp] theorem State.beginWait_dt (x : Reg) : (s.beginWait x).dt = s.dt := rfl
@[simp] theorem State.beginWait_st (x : Reg) : (s.beginWait x).st = s.st := rfl
@[simp] theorem State.beginWait_disp (x : Reg) : (s.beginWait x).disp = s.disp := rfl
@[simp] theorem State.beginWait_key (x : Reg) : (s.beginWait x).key = s.key := rfl
@[simp] theorem State.beginWait_run (x : Reg) : (s.beginWait x).run = .blocked := rfl
@[simp] theorem State.beginWait_pending (x : Reg) : (s.beginWait x).pending = some x := rfl
@[simp] theorem State.beginWait_draws (x : Reg) : (s.beginWait x).draws = s.draws := rfl
@[simp] theorem State.beginWait_agenda (x : Reg) : (s.beginWait x).agenda = s.agenda := rfl
@[simp] theorem State.beginWait_reg (x : Reg) (q : Reg) : (s.beginWait x).reg q = s.reg q := rfl
@[simp] theorem State.beginWait_readByte (x : Reg) (c : Addr) : (s.beginWait x).readByte c = s.readByte c := rfl
@[simp] theorem State.beginWait_pressed (x : Reg) (q : Nibble) : (s.beginWait x).pressed q = s.pressed q := rfl
@[simp] theorem State.beginWait_dataAddr (x : Reg) (n : Nat) : (s.beginWait x).dataAddr n = s.dataAddr n := rfl
@[simp] theorem State.beginWait_canFetch (x : Reg) : (s.beginWait x).canFetch = s.canFetch := rfl
@[simp] theorem State.beginWait_byteAt (x : Reg) (n : Nat) : (s.beginWait x).byteAt n = s.byteAt n := rfl
@[simp] theorem State.beginWait_fetchWord (x : Reg) : (s.beginWait x).fetchWord = s.fetchWord := rfl
@[simp] theorem State.beginWait_drawnByte (x : Reg) : (s.beginWait x).drawnByte = s.drawnByte := rfl
@[simp] theorem State.beginWait_spriteLine (x : Reg) (n : Nat) : (s.beginWait x).spriteLine n = s.spriteLine n := rfl

/-! ### endWait -/

@[simp] theorem State.endWait_mem : (s.endWait).mem = s.mem := rfl
@[simp] theorem State.endWait_v : (s.endWait).v = s.v := rfl
@[simp] theorem State.endWait_i : (s.endWait).i = s.i := rfl
@[simp] theorem State.endWait_pc : (s.endWait).pc = s.pc := rfl
@[simp] theorem State.endWait_stack : (s.endWait).stack = s.stack := rfl
@[simp] theorem State.endWait_dt : (s.endWait).dt = s.dt := rfl
@[simp] theorem State.endWait_st : (s.endWait).st = s.st := rfl
@[simp] theorem State.endWait_disp : (s.endWait).disp = s.disp := rfl
@[simp] theorem State.endWait_key : (s.endWait).key = s.key := rfl
@[simp] theorem State.endWait_run : (s.endWait).run = .running := rfl
@[simp] theorem State.endWait_pending : (s.endWait).pending = none := rfl
@[simp] theorem State.endWait_draws : (s.endWait).draws = s.draws := rfl
@[simp] theorem State.endWait_agenda : (s.endWait).agenda = s.agenda := rfl
@[simp] theorem State.endWait_reg (q : Reg) : (s.endWait).reg q = s.reg q := rfl
@[simp] theorem State.endWait_readByte (c : Addr) : (s.endWait).readByte c = s.readByte c := rfl
@[simp] theorem State.endWait_pressed (q : Nibble) : (s.endWait).pressed q = s.pressed q := rfl
@[simp] theorem State.endWait_dataAddr (n : Nat) : (s.endWait).dataAddr n = s.dataAddr n := rfl
@[simp] theorem State.endWait_canFetch : (s.endWait).canFetch = s.canFetch := rfl
@[simp] theorem State.endWait_byteAt (n : Nat) : (s.endWait).byteAt n = s.byteAt n := rfl
@[simp] theorem State.endWait_fetchWord : (s.endWait).fetchWord = s.fetchWord := rfl
@[simp] theorem State.endWait_drawnByte : (s.endWait).drawnByte = s.drawnByte := rfl
@[simp] theorem State.endWait_spriteLine (n : Nat) : (s.endWait).spriteLine n = s.spriteLine n := rfl

/-! ### stop -/

@[simp] theorem State.stop_mem : (s.stop).mem = s.mem := rfl
@[simp] theorem State.stop_v : (s.stop).v = s.v := rfl
@[simp] theorem State.stop_i : (s.stop).i = s.i := rfl
@[simp] theorem State.stop_pc : (s.stop).pc = s.pc := rfl
@[simp] theorem State.stop_stack : (s.stop).stack = s.stack := rfl
@[simp] theorem State.stop_dt : (s.stop).dt = s.dt := rfl
@[simp] theorem State.stop_st : (s.stop).st = s.st := rfl
@[simp] theorem State.stop_disp : (s.stop).disp = s.disp := rfl
@[simp] theorem State.stop_key : (s.stop).key = s.key := rfl
@[simp] theorem State.stop_run : (s.stop).run = .halted := rfl
@[simp] theorem State.stop_pending : (s.stop).pending = none := rfl
@[simp] theorem State.stop_draws : (s.stop).draws = s.draws := rfl
@[simp] theorem State.stop_agenda : (s.stop).agenda = s.agenda := rfl
@[simp] theorem State.stop_reg (q : Reg) : (s.stop).reg q = s.reg q := rfl
@[simp] theorem State.stop_readByte (c : Addr) : (s.stop).readByte c = s.readByte c := rfl
@[simp] theorem State.stop_pressed (q : Nibble) : (s.stop).pressed q = s.pressed q := rfl
@[simp] theorem State.stop_dataAddr (n : Nat) : (s.stop).dataAddr n = s.dataAddr n := rfl
@[simp] theorem State.stop_canFetch : (s.stop).canFetch = s.canFetch := rfl
@[simp] theorem State.stop_byteAt (n : Nat) : (s.stop).byteAt n = s.byteAt n := rfl
@[simp] theorem State.stop_fetchWord : (s.stop).fetchWord = s.fetchWord := rfl
@[simp] theorem State.stop_drawnByte : (s.stop).drawnByte = s.drawnByte := rfl
@[simp] theorem State.stop_spriteLine (n : Nat) : (s.stop).spriteLine n = s.spriteLine n := rfl

/-! ### setAgenda -/

@[simp] theorem State.setAgenda_mem (l : List Event) : (s.setAgenda l).mem = s.mem := rfl
@[simp] theorem State.setAgenda_v (l : List Event) : (s.setAgenda l).v = s.v := rfl
@[simp] theorem State.setAgenda_i (l : List Event) : (s.setAgenda l).i = s.i := rfl
@[simp] theorem State.setAgenda_pc (l : List Event) : (s.setAgenda l).pc = s.pc := rfl
@[simp] theorem State.setAgenda_stack (l : List Event) : (s.setAgenda l).stack = s.stack := rfl
@[simp] theorem State.setAgenda_dt (l : List Event) : (s.setAgenda l).dt = s.dt := rfl
@[simp] theorem State.setAgenda_st (l : List Event) : (s.setAgenda l).st = s.st := rfl
@[simp] theorem State.setAgenda_disp (l : List Event) : (s.setAgenda l).disp = s.disp := rfl
@[simp] theorem State.setAgenda_key (l : List Event) : (s.setAgenda l).key = s.key := rfl
@[simp] theorem State.setAgenda_run (l : List Event) : (s.setAgenda l).run = s.run := rfl
@[simp] theorem State.setAgenda_pending (l : List Event) : (s.setAgenda l).pending = s.pending := rfl
@[simp] theorem State.setAgenda_draws (l : List Event) : (s.setAgenda l).draws = s.draws := rfl
@[simp] theorem State.setAgenda_agenda (l : List Event) : (s.setAgenda l).agenda = l := rfl
@[simp] theorem State.setAgenda_reg (l : List Event) (q : Reg) : (s.setAgenda l).reg q = s.reg q := rfl
@[simp] theorem State.setAgenda_readByte (l : List Event) (c : Addr) : (s.setAgenda l).readByte c = s.readByte c := rfl
@[simp] theorem State.setAgenda_pressed (l : List Event) (q : Nibble) : (s.setAgenda l).pressed q = s.pressed q := rfl
@[simp] theorem State.setAgenda_dataAddr (l : List Event) (n : Nat) : (s.setAgenda l).dataAddr n = s.dataAddr n := rfl
@[simp] theorem State.setAgenda_canFetch (l : List Event) : (s.setAgenda l).canFetch = s.canFetch := rfl
@[simp] theorem State.setAgenda_byteAt (l : List Event) (n : Nat) : (s.setAgenda l).byteAt n = s.byteAt n := rfl
@[simp] theorem State.setAgenda_fetchWord (l : List Event) : (s.setAgenda l).fetchWord = s.fetchWord := rfl
@[simp] theorem State.setAgenda_drawnByte (l : List Event) : (s.setAgenda l).drawnByte = s.drawnByte := rfl
@[simp] theorem State.setAgenda_spriteLine (l : List Event) (n : Nat) : (s.setAgenda l).spriteLine n = s.spriteLine n := rfl

/-! ### push -/

@[simp] theorem State.push_mem (a : PcVal) : (s.push a).mem = s.mem := rfl
@[simp] theorem State.push_v (a : PcVal) : (s.push a).v = s.v := rfl
@[simp] theorem State.push_i (a : PcVal) : (s.push a).i = s.i := rfl
@[simp] theorem State.push_pc (a : PcVal) : (s.push a).pc = s.pc := rfl
@[simp] theorem State.push_stack (a : PcVal) : (s.push a).stack = s.stack ++ [a] := rfl
@[simp] theorem State.push_dt (a : PcVal) : (s.push a).dt = s.dt := rfl
@[simp] theorem State.push_st (a : PcVal) : (s.push a).st = s.st := rfl
@[simp] theorem State.push_disp (a : PcVal) : (s.push a).disp = s.disp := rfl
@[simp] theorem State.push_key (a : PcVal) : (s.push a).key = s.key := rfl
@[simp] theorem State.push_run (a : PcVal) : (s.push a).run = s.run := rfl
@[simp] theorem State.push_pending (a : PcVal) : (s.push a).pending = s.pending := rfl
@[simp] theorem State.push_draws (a : PcVal) : (s.push a).draws = s.draws := rfl
@[simp] theorem State.push_agenda (a : PcVal) : (s.push a).agenda = s.agenda := rfl
@[simp] theorem State.push_reg (a : PcVal) (q : Reg) : (s.push a).reg q = s.reg q := rfl
@[simp] theorem State.push_readByte (a : PcVal) (c : Addr) : (s.push a).readByte c = s.readByte c := rfl
@[simp] theorem State.push_pressed (a : PcVal) (q : Nibble) : (s.push a).pressed q = s.pressed q := rfl
@[simp] theorem State.push_dataAddr (a : PcVal) (n : Nat) : (s.push a).dataAddr n = s.dataAddr n := rfl
@[simp] theorem State.push_canFetch (a : PcVal) : (s.push a).canFetch = s.canFetch := rfl
@[simp] theorem State.push_byteAt (a : PcVal) (n : Nat) : (s.push a).byteAt n = s.byteAt n := rfl
@[simp] theorem State.push_fetchWord (a : PcVal) : (s.push a).fetchWord = s.fetchWord := rfl
@[simp] theorem State.push_drawnByte (a : PcVal) : (s.push a).drawnByte = s.drawnByte := rfl
@[simp] theorem State.push_spriteLine (a : PcVal) (n : Nat) : (s.push a).spriteLine n = s.spriteLine n := rfl

/-! ### pop -/

@[simp] theorem State.pop_mem : (s.pop).mem = s.mem := rfl
@[simp] theorem State.pop_v : (s.pop).v = s.v := rfl
@[simp] theorem State.pop_i : (s.pop).i = s.i := rfl
@[simp] theorem State.pop_pc : (s.pop).pc = s.pc := rfl
@[simp] theorem State.pop_stack : (s.pop).stack = s.stack.dropLast := rfl
@[simp] theorem State.pop_dt : (s.pop).dt = s.dt := rfl
@[simp] theorem State.pop_st : (s.pop).st = s.st := rfl
@[simp] theorem State.pop_disp : (s.pop).disp = s.disp := rfl
@[simp] theorem State.pop_key : (s.pop).key = s.key := rfl
@[simp] theorem State.pop_run : (s.pop).run = s.run := rfl
@[simp] theorem State.pop_pending : (s.pop).pending = s.pending := rfl
@[simp] theorem State.pop_draws : (s.pop).draws = s.draws := rfl
@[simp] theorem State.pop_agenda : (s.pop).agenda = s.agenda := rfl
@[simp] theorem State.pop_reg (q : Reg) : (s.pop).reg q = s.reg q := rfl
@[simp] theorem State.pop_readByte (c : Addr) : (s.pop).readByte c = s.readByte c := rfl
@[simp] theorem State.pop_pressed (q : Nibble) : (s.pop).pressed q = s.pressed q := rfl
@[simp] theorem State.pop_dataAddr (n : Nat) : (s.pop).dataAddr n = s.dataAddr n := rfl
@[simp] theorem State.pop_canFetch : (s.pop).canFetch = s.canFetch := rfl
@[simp] theorem State.pop_byteAt (n : Nat) : (s.pop).byteAt n = s.byteAt n := rfl
@[simp] theorem State.pop_fetchWord : (s.pop).fetchWord = s.fetchWord := rfl
@[simp] theorem State.pop_drawnByte : (s.pop).drawnByte = s.drawnByte := rfl
@[simp] theorem State.pop_spriteLine (n : Nat) : (s.pop).spriteLine n = s.spriteLine n := rfl

/-! ### advancePc -/

@[simp] theorem State.advancePc_mem : (s.advancePc).mem = s.mem := rfl
@[simp] theorem State.advancePc_v : (s.advancePc).v = s.v := rfl
@[simp] theorem State.advancePc_i : (s.advancePc).i = s.i := rfl
@[simp] theorem State.advancePc_pc : (s.advancePc).pc = s.pc + 2#13 := rfl
@[simp] theorem State.advancePc_stack : (s.advancePc).stack = s.stack := rfl
@[simp] theorem State.advancePc_dt : (s.advancePc).dt = s.dt := rfl
@[simp] theorem State.advancePc_st : (s.advancePc).st = s.st := rfl
@[simp] theorem State.advancePc_disp : (s.advancePc).disp = s.disp := rfl
@[simp] theorem State.advancePc_key : (s.advancePc).key = s.key := rfl
@[simp] theorem State.advancePc_run : (s.advancePc).run = s.run := rfl
@[simp] theorem State.advancePc_pending : (s.advancePc).pending = s.pending := rfl
@[simp] theorem State.advancePc_draws : (s.advancePc).draws = s.draws := rfl
@[simp] theorem State.advancePc_agenda : (s.advancePc).agenda = s.agenda := rfl
@[simp] theorem State.advancePc_reg (q : Reg) : (s.advancePc).reg q = s.reg q := rfl
@[simp] theorem State.advancePc_readByte (c : Addr) : (s.advancePc).readByte c = s.readByte c := rfl
@[simp] theorem State.advancePc_pressed (q : Nibble) : (s.advancePc).pressed q = s.pressed q := rfl
@[simp] theorem State.advancePc_dataAddr (n : Nat) : (s.advancePc).dataAddr n = s.dataAddr n := rfl
@[simp] theorem State.advancePc_byteAt (n : Nat) : (s.advancePc).byteAt n = s.byteAt n := rfl
@[simp] theorem State.advancePc_drawnByte : (s.advancePc).drawnByte = s.drawnByte := rfl
@[simp] theorem State.advancePc_spriteLine (n : Nat) : (s.advancePc).spriteLine n = s.spriteLine n := rfl

/-! ### haltOutOfBounds -/

@[simp] theorem State.haltOutOfBounds_mem : (s.haltOutOfBounds).mem = s.mem := rfl
@[simp] theorem State.haltOutOfBounds_v : (s.haltOutOfBounds).v = s.v := rfl
@[simp] theorem State.haltOutOfBounds_i : (s.haltOutOfBounds).i = s.i := rfl
@[simp] theorem State.haltOutOfBounds_pc : (s.haltOutOfBounds).pc = s.pc := rfl
@[simp] theorem State.haltOutOfBounds_stack : (s.haltOutOfBounds).stack = s.stack := rfl
@[simp] theorem State.haltOutOfBounds_dt : (s.haltOutOfBounds).dt = s.dt := rfl
@[simp] theorem State.haltOutOfBounds_st : (s.haltOutOfBounds).st = s.st := rfl
@[simp] theorem State.haltOutOfBounds_disp : (s.haltOutOfBounds).disp = s.disp := rfl
@[simp] theorem State.haltOutOfBounds_key : (s.haltOutOfBounds).key = s.key := rfl
@[simp] theorem State.haltOutOfBounds_run : (s.haltOutOfBounds).run = .halted := rfl
@[simp] theorem State.haltOutOfBounds_pending : (s.haltOutOfBounds).pending = s.pending := rfl
@[simp] theorem State.haltOutOfBounds_draws : (s.haltOutOfBounds).draws = s.draws := rfl
@[simp] theorem State.haltOutOfBounds_agenda : (s.haltOutOfBounds).agenda = s.agenda := rfl
@[simp] theorem State.haltOutOfBounds_reg (q : Reg) : (s.haltOutOfBounds).reg q = s.reg q := rfl
@[simp] theorem State.haltOutOfBounds_readByte (c : Addr) : (s.haltOutOfBounds).readByte c = s.readByte c := rfl
@[simp] theorem State.haltOutOfBounds_pressed (q : Nibble) : (s.haltOutOfBounds).pressed q = s.pressed q := rfl
@[simp] theorem State.haltOutOfBounds_dataAddr (n : Nat) : (s.haltOutOfBounds).dataAddr n = s.dataAddr n := rfl
@[simp] theorem State.haltOutOfBounds_canFetch : (s.haltOutOfBounds).canFetch = s.canFetch := rfl
@[simp] theorem State.haltOutOfBounds_byteAt (n : Nat) : (s.haltOutOfBounds).byteAt n = s.byteAt n := rfl
@[simp] theorem State.haltOutOfBounds_fetchWord : (s.haltOutOfBounds).fetchWord = s.fetchWord := rfl
@[simp] theorem State.haltOutOfBounds_drawnByte : (s.haltOutOfBounds).drawnByte = s.drawnByte := rfl
@[simp] theorem State.haltOutOfBounds_spriteLine (n : Nat) : (s.haltOutOfBounds).spriteLine n = s.spriteLine n := rfl

/-! ### afterDraw -/

@[simp] theorem State.afterDraw_mem : (s.afterDraw).mem = s.mem := rfl
@[simp] theorem State.afterDraw_v : (s.afterDraw).v = s.v := rfl
@[simp] theorem State.afterDraw_i : (s.afterDraw).i = s.i := rfl
@[simp] theorem State.afterDraw_pc : (s.afterDraw).pc = s.pc := rfl
@[simp] theorem State.afterDraw_stack : (s.afterDraw).stack = s.stack := rfl
@[simp] theorem State.afterDraw_dt : (s.afterDraw).dt = s.dt := rfl
@[simp] theorem State.afterDraw_st : (s.afterDraw).st = s.st := rfl
@[simp] theorem State.afterDraw_disp : (s.afterDraw).disp = s.disp := rfl
@[simp] theorem State.afterDraw_key : (s.afterDraw).key = s.key := rfl
@[simp] theorem State.afterDraw_run : (s.afterDraw).run = s.run := rfl
@[simp] theorem State.afterDraw_pending : (s.afterDraw).pending = s.pending := rfl
@[simp] theorem State.afterDraw_draws : (s.afterDraw).draws = s.draws + 1 := rfl
@[simp] theorem State.afterDraw_agenda : (s.afterDraw).agenda = s.agenda := rfl
@[simp] theorem State.afterDraw_reg (q : Reg) : (s.afterDraw).reg q = s.reg q := rfl
@[simp] theorem State.afterDraw_readByte (c : Addr) : (s.afterDraw).readByte c = s.readByte c := rfl
@[simp] theorem State.afterDraw_pressed (q : Nibble) : (s.afterDraw).pressed q = s.pressed q := rfl
@[simp] theorem State.afterDraw_dataAddr (n : Nat) : (s.afterDraw).dataAddr n = s.dataAddr n := rfl
@[simp] theorem State.afterDraw_canFetch : (s.afterDraw).canFetch = s.canFetch := rfl
@[simp] theorem State.afterDraw_byteAt (n : Nat) : (s.afterDraw).byteAt n = s.byteAt n := rfl
@[simp] theorem State.afterDraw_fetchWord : (s.afterDraw).fetchWord = s.fetchWord := rfl
@[simp] theorem State.afterDraw_spriteLine (n : Nat) : (s.afterDraw).spriteLine n = s.spriteLine n := rfl

/-! ### maskDraw -/

@[simp] theorem State.maskDraw_eq (x : Reg) (nn b : Byte) : s.maskDraw x nn b = s.setReg x (b &&& nn) := rfl

/-! ### tick -/

@[simp] theorem State.tick_mem : (s.tick).mem = s.mem := rfl
@[simp] theorem State.tick_v : (s.tick).v = s.v := rfl
@[simp] theorem State.tick_i : (s.tick).i = s.i := rfl
@[simp] theorem State.tick_pc : (s.tick).pc = s.pc := rfl
@[simp] theorem State.tick_stack : (s.tick).stack = s.stack := rfl
@[simp] theorem State.tick_dt : (s.tick).dt = countDown s.dt := rfl
@[simp] theorem State.tick_st : (s.tick).st = countDown s.st := rfl
@[simp] theorem State.tick_disp : (s.tick).disp = s.disp := rfl
@[simp] theorem State.tick_key : (s.tick).key = s.key := rfl
@[simp] theorem State.tick_run : (s.tick).run = s.run := rfl
@[simp] theorem State.tick_pending : (s.tick).pending = s.pending := rfl
@[simp] theorem State.tick_draws : (s.tick).draws = s.draws := rfl
@[simp] theorem State.tick_agenda : (s.tick).agenda = s.agenda := rfl
@[simp] theorem State.tick_reg (q : Reg) : (s.tick).reg q = s.reg q := rfl
@[simp] theorem State.tick_readByte (c : Addr) : (s.tick).readByte c = s.readByte c := rfl
@[simp] theorem State.tick_pressed (q : Nibble) : (s.tick).pressed q = s.pressed q := rfl
@[simp] theorem State.tick_dataAddr (n : Nat) : (s.tick).dataAddr n = s.dataAddr n := rfl
@[simp] theorem State.tick_canFetch : (s.tick).canFetch = s.canFetch := rfl
@[simp] theorem State.tick_byteAt (n : Nat) : (s.tick).byteAt n = s.byteAt n := rfl
@[simp] theorem State.tick_fetchWord : (s.tick).fetchWord = s.fetchWord := rfl
@[simp] theorem State.tick_drawnByte : (s.tick).drawnByte = s.drawnByte := rfl
@[simp] theorem State.tick_spriteLine (n : Nat) : (s.tick).spriteLine n = s.spriteLine n := rfl

/-! ### clearKeys -/

@[simp] theorem State.clearKeys_mem : (s.clearKeys).mem = s.mem := rfl
@[simp] theorem State.clearKeys_v : (s.clearKeys).v = s.v := rfl
@[simp] theorem State.clearKeys_i : (s.clearKeys).i = s.i := rfl
@[simp] theorem State.clearKeys_pc : (s.clearKeys).pc = s.pc := rfl
@[simp] theorem State.clearKeys_stack : (s.clearKeys).stack = s.stack := rfl
@[simp] theorem State.clearKeys_dt : (s.clearKeys).dt = s.dt := rfl
@[simp] theorem State.clearKeys_st : (s.clearKeys).st = s.st := rfl
@[simp] theorem State.clearKeys_disp : (s.clearKeys).disp = s.disp := rfl
@[simp] theorem State.clearKeys_key : (s.clearKeys).key = Vector.replicate 16 false := rfl
@[simp] theorem State.clearKeys_run : (s.clearKeys).run = s.run := rfl
@[simp] theorem State.clearKeys_pending : (s.clearKeys).pending = s.pending := rfl
@[simp] theorem State.clearKeys_draws : (s.clearKeys).draws = s.draws := rfl
@[simp] theorem State.clearKeys_agenda : (s.clearKeys).agenda = s.agenda := rfl
@[simp] theorem State.clearKeys_reg (q : Reg) : (s.clearKeys).reg q = s.reg q := rfl
@[simp] theorem State.clearKeys_readByte (c : Addr) : (s.clearKeys).readByte c = s.readByte c := rfl
@[simp] theorem State.clearKeys_dataAddr (n : Nat) : (s.clearKeys).dataAddr n = s.dataAddr n := rfl
@[simp] theorem State.clearKeys_canFetch : (s.clearKeys).canFetch = s.canFetch := rfl
@[simp] theorem State.clearKeys_byteAt (n : Nat) : (s.clearKeys).byteAt n = s.byteAt n := rfl
@[simp] theorem State.clearKeys_fetchWord : (s.clearKeys).fetchWord = s.fetchWord := rfl
@[simp] theorem State.clearKeys_drawnByte : (s.clearKeys).drawnByte = s.drawnByte := rfl
@[simp] theorem State.clearKeys_spriteLine (n : Nat) : (s.clearKeys).spriteLine n = s.spriteLine n := rfl

end Sys2Proof.Machine
end

