-- ==== Sys2Proof/Laws/Lifetime.lean ====
section
/-!
SUPPORT. The law of the loader (70_reset_and_hazards.md R145): what copying an image into Memory does.
-/

namespace Sys2Proof.Machine

/-- Copying an image from offset `k` on puts its bytes there in order, leaves every other address alone, and changes
Memory alone. -/
theorem State.copyImage_spec (image : List Byte) : ∀ (k : Nat) (s : State),
    (∀ j (h : j < image.length), (s.copyImage image k).mem.read (0x200 + k + j) = image[j]) ∧
    (∀ a, a < 0x200 + k ∨ 0x200 + k + image.length ≤ a → (s.copyImage image k).mem.read a = s.mem.read a) ∧
    s.copyImage image k = { s with mem := (s.copyImage image k).mem } := by
  induction image with
  | nil => exact fun k s => ⟨by simp, by simp [State.copyImage], rfl⟩
  | cons b rest ih =>
    intro k s
    rw [State.copyImage]
    obtain ⟨own, others, only⟩ := ih (k + 1) { s with mem := s.mem.write (Config.loadBase + k) b }
    refine ⟨?_, ?_, by rw [only]⟩
    · intro j hj
      cases j with
      | zero => rw [others _ (.inl (by omega))]; simp [Config.loadBase]
      | succ j =>
        have := own j (by simpa using hj)
        rw [show 0x200 + k + (j + 1) = 0x200 + (k + 1) + j by omega, this]; simp
    · intro a ha
      rw [List.length_cons] at ha
      rw [others a (by omega)]
      exact Memory.read_write_ne _ _ (by unfold Config.loadBase; omega)

/-- The image keeps the canonical form of Memory, if it fits. -/
theorem State.copyImage_wf (image : List Byte) : ∀ (k : Nat) (s : State), k + image.length ≤ Config.maxImage →
    s.mem.wf = true → (s.copyImage image k).mem.wf = true := by
  induction image with
  | nil => exact fun _ _ _ h => h
  | cons b rest ih =>
    intro k s hk h
    rw [List.length_cons] at hk
    refine ih (k + 1) _ (by omega) ?_
    exact Memory.wf_write _ h (by unfold Config.loadBase Config.memSize; unfold Config.maxImage at hk; omega)

end Sys2Proof.Machine
end

