-- ==== Sys2Proof/Laws/Ops.lean ====
section
/-!
SUPPORT. One lemma per shared operation, saying once what it does to what the meanings read: registers, memory bytes,
latch bits, the skip, the return, the blocks, the flags.
-/

namespace Sys2Proof.Machine

variable (s : State)

/-! ### Registers, memory, latch -/

theorem State.reg_setReg (r q : Reg) (b : Byte) : (s.setReg r b).reg q = if q = r then b else s.reg q := by
  by_cases h : q = r
  · subst h; simp [State.reg, State.setReg]
  · have : r.toNat ≠ q.toNat := fun e => h (BitVec.eq_of_toNat_eq e.symm)
    simp [State.reg, State.setReg, h, this]

@[simp] theorem State.reg_setReg_same (r : Reg) (b : Byte) : (s.setReg r b).reg r = b := by
  simp [State.reg_setReg]

theorem State.reg_setReg_ne {r q : Reg} (b : Byte) (h : q ≠ r) : (s.setReg r b).reg q = s.reg q := by
  simp [State.reg_setReg, h]

theorem State.readByte_writeByte (a c : Addr) (b : Byte) :
    (s.writeByte a b).readByte c = if c = a then b else s.readByte c := by
  by_cases h : c = a
  · subst h; simp [State.readByte, State.writeByte]
  · have : c.toNat ≠ a.toNat := fun e => h (BitVec.eq_of_toNat_eq e)
    simp [State.readByte, State.writeByte, h, Memory.read_write_ne _ _ this]

@[simp] theorem State.readByte_writeByte_same (a : Addr) (b : Byte) : (s.writeByte a b).readByte a = b := by
  simp [State.readByte_writeByte]

theorem State.writeByte_wf {s : State} (a : Addr) (b : Byte) (h : s.mem.wf = true) :
    (s.writeByte a b).mem.wf = true :=
  Memory.wf_write b h (by have := a.isLt; simp [Config.memSize]; omega)

theorem State.pressed_setKey (k q : Nibble) (p : Bool) :
    (s.setKey k p).pressed q = if q = k then p else s.pressed q := by
  by_cases h : q = k
  · subst h; simp [State.pressed, State.setKey]
  · have : k.toNat ≠ q.toNat := fun e => h (BitVec.eq_of_toNat_eq e.symm)
    simp [State.pressed, State.setKey, h, this]

@[simp] theorem State.pressed_clearKeys (k : Nibble) : s.clearKeys.pressed k = false := by
  simp [State.pressed, State.clearKeys]

/-! ### The skip and the return: everything they can do -/

/-- A skip advances PC by two where the second fetch is in bounds and halts otherwise. -/
theorem State.skipNext_cases :
    (s.pc.toNat ≤ Config.lastFetch ∧ s.skipNext = s.advancePc) ∨
    (Config.lastFetch < s.pc.toNat ∧ s.skipNext = s.haltOutOfBounds) := by
  by_cases h : s.pc.toNat ≤ Config.lastFetch
  · exact .inl ⟨h, by simp [State.skipNext, State.canFetch, h]⟩
  · exact .inr ⟨by omega, by simp [State.skipNext, State.canFetch, h]⟩

/-- A conditional skip does nothing, advances, or halts. -/
theorem State.skipIf_cases (c : Bool) :
    (c = false ∧ s.skipIf c = s) ∨
    (c = true ∧ s.pc.toNat ≤ Config.lastFetch ∧ s.skipIf c = s.advancePc) ∨
    (c = true ∧ Config.lastFetch < s.pc.toNat ∧ s.skipIf c = s.haltOutOfBounds) := by
  cases c with
  | false => exact .inl ⟨rfl, rfl⟩
  | true =>
    rcases s.skipNext_cases with ⟨h, e⟩ | ⟨h, e⟩
    · exact .inr (.inl ⟨rfl, h, by simpa [State.skipIf] using e⟩)
    · exact .inr (.inr ⟨rfl, h, by simpa [State.skipIf] using e⟩)

theorem State.popToPc_nil {s : State} (h : s.stack = []) : s.popToPc = s := by
  simp [State.popToPc, h]

theorem State.popToPc_concat {s : State} {l : List PcVal} {a : PcVal} (h : s.stack = l ++ [a]) :
    s.popToPc = s.pop.setPc a := by
  simp [State.popToPc, h]

/-- RET does nothing, or takes PC from the end of the stack. -/
theorem State.popToPc_cases :
    (s.stack = [] ∧ s.popToPc = s) ∨ ∃ l a, s.stack = l ++ [a] ∧ s.popToPc = s.pop.setPc a := by
  rcases List.eq_nil_or_concat s.stack with h | ⟨l, a, h⟩ <;> try rw [List.concat_eq_append] at h
  · exact .inl ⟨h, State.popToPc_nil h⟩
  · exact .inr ⟨l, a, h, State.popToPc_concat h⟩

/-! ### Results with flags -/

theorem State.reg_setResultAndFlag (x q : Reg) (r : Byte × Byte) :
    (s.setResultAndFlag x r).reg q = if q = Config.flagReg then r.2 else if q = x then r.1 else s.reg q := by
  simp [State.setResultAndFlag, State.reg_setReg]

@[simp] theorem lowByte_eq (n : Nat) : lowByte n = BitVec.ofNat 8 n := by
  have : n &&& 0xFF = n % 256 := Nat.and_two_pow_sub_one_eq_mod n 8
  apply BitVec.eq_of_toNat_eq
  simp [lowByte, this]

theorem bit8_eq (n : Nat) (h : n < 512) : bit8 n = if 256 ≤ n then 1#8 else 0#8 := by
  simp only [bit8, Nat.shiftRight_eq_div_pow, Nat.and_one_is_mod]
  by_cases hn : 256 ≤ n
  · have : n / 2 ^ 8 % 2 = 1 := by omega
    rw [this]; simp [hn]
  · have : n / 2 ^ 8 % 2 = 0 := by omega
    rw [this]; simp [hn]

/-- The carry is 1 exactly when the sum passes 255 (41_alu.md R97). -/
theorem addWithCarry_eq (a b : Byte) :
    addWithCarry a b = (a + b, if 256 ≤ a.toNat + b.toNat then 1#8 else 0#8) := by
  have ha := a.isLt
  have hb := b.isLt
  simp only [addWithCarry, lowByte_eq, bit8_eq _ (show a.toNat + b.toNat < 512 by omega)]
  congr 1

/-- The no-borrow flag is 1 exactly when a ≥ b (R97). -/
theorem subNoBorrow_eq (a b : Byte) :
    subNoBorrow a b = (a - b, if b.toNat ≤ a.toNat then 1#8 else 0#8) := by
  have ha := a.isLt
  have hb := b.isLt
  have hor : a.toNat ||| 0x100 = 256 + a.toNat := by
    rw [Nat.lor_comm]; exact (Nat.two_pow_add_eq_or_of_lt (i := 8) ha 1).symm
  simp only [subNoBorrow, hor, lowByte_eq, bit8_eq _ (show 256 + a.toNat - b.toNat < 512 by omega)]
  congr 1
  · apply BitVec.eq_of_toNat_eq
    rw [BitVec.toNat_ofNat, BitVec.toNat_sub]
    congr 1
    omega
  · by_cases h : b.toNat ≤ a.toNat
    · rw [if_pos h, if_pos (by omega)]
    · rw [if_neg h, if_neg (by omega)]

/-! ### Blocks -/

theorem BitVec12_ofNat_inj {a b : Nat} (ha : a < 4096) (hb : b < 4096)
    (h : BitVec.ofNat 12 a = BitVec.ofNat 12 b) : a = b := by
  have := congrArg BitVec.toNat h
  simp at this
  omega

theorem State.dataAddr_inj {a b : Nat} (ha : a < 4096) (hb : b < 4096) (h : s.dataAddr a = s.dataAddr b) : a = b := by
  apply BitVec12_ofNat_inj ha hb
  have h' : s.i + BitVec.ofNat 12 a = s.i + BitVec.ofNat 12 b := h
  bv_omega

/-- A block store changes Memory alone. -/
theorem State.storeBlock_eq (n : Nat) : s.storeBlock n = { s with mem := (s.storeBlock n).mem } := by
  induction n with
  | zero => rfl
  | succ n ih => rw [State.storeBlock, ih]; rfl

/-- A block store puts V[k] at I + k for each k it covers. -/
theorem State.readByte_storeBlock (n : Nat) (hn : n ≤ 4096) {k : Nat} (hk : k < n) :
    (s.storeBlock n).readByte (s.dataAddr k) = s.reg (BitVec.ofNat 4 k) := by
  induction n with
  | zero => omega
  | succ n ih =>
    rw [State.storeBlock, State.readByte_writeByte]
    by_cases h : k = n
    · simp [h]
    · have : s.dataAddr k ≠ s.dataAddr n := fun e => h (s.dataAddr_inj (by omega) (by omega) e)
      rw [if_neg this, ih (by omega) (by omega)]

/-- A block store leaves every other byte alone. -/
theorem State.readByte_storeBlock_ne (n : Nat) (a : Addr) (h : ∀ k < n, a ≠ s.dataAddr k) :
    (s.storeBlock n).readByte a = s.readByte a := by
  induction n with
  | zero => rfl
  | succ n ih =>
    rw [State.storeBlock, State.readByte_writeByte, if_neg (h n (by omega)), ih fun k hk => h k (by omega)]

theorem State.storeBlock_wf {s : State} (n : Nat) (h : s.mem.wf = true) : (s.storeBlock n).mem.wf = true := by
  induction n with
  | zero => exact h
  | succ n ih => exact State.writeByte_wf _ _ ih

/-- A block load changes the registers alone. -/
theorem State.loadBlock_eq (n : Nat) : s.loadBlock n = { s with v := (s.loadBlock n).v } := by
  induction n with
  | zero => rfl
  | succ n ih => rw [State.loadBlock, ih]; rfl

/-- A block load of n registers puts the byte at I + r in V[r] for each r below n and leaves the rest alone. -/
theorem State.reg_loadBlock (n : Nat) (hn : n ≤ 16) (r : Reg) :
    (s.loadBlock n).reg r = if r.toNat < n then s.readByte (s.dataAddr r.toNat) else s.reg r := by
  induction n with
  | zero => simp [State.loadBlock]
  | succ n ih =>
    rw [State.loadBlock, State.reg_setReg]
    by_cases h : r = BitVec.ofNat 4 n
    · have : r.toNat = n := by subst h; simp; omega
      rw [if_pos h, if_pos (by omega), this]
    · have : r.toNat ≠ n := by
        intro e; apply h; apply BitVec.eq_of_toNat_eq; simp [e]; omega
      rw [if_neg h, ih (by omega)]
      by_cases hr : r.toNat < n
      · rw [if_pos hr, if_pos (by omega)]
      · rw [if_neg hr, if_neg (by omega)]

end Sys2Proof.Machine
end

