-- ==== Sys2Proof/Laws/PerInstr.lean ====
section
/-!
SUPPORT. Statements made of every instruction, one lemma per constructor. Family RowMatch: the encoder's word carries the
fixed bits that the instruction's row of spec/opcode_table.json gives (30_encoding.md R62).
-/

namespace Sys2Proof.Laws

/-- The mask of an instruction's row in spec/opcode_table.json. -/
def rowMask : Instr → Word
  | .cls => 0xFFFF#16
  | .ret => 0xFFFF#16
  | .sys _ => 0xF000#16
  | .jp _ => 0xF000#16
  | .call _ => 0xF000#16
  | .seImm _ _ => 0xF000#16
  | .sneImm _ _ => 0xF000#16
  | .seReg _ _ => 0xF00F#16
  | .nop5 _ _ _ => 0xF000#16
  | .ldImm _ _ => 0xF000#16
  | .addImm _ _ => 0xF000#16
  | .ldReg _ _ => 0xF00F#16
  | .orReg _ _ => 0xF00F#16
  | .andReg _ _ => 0xF00F#16
  | .xorReg _ _ => 0xF00F#16
  | .addReg _ _ => 0xF00F#16
  | .sub _ _ => 0xF00F#16
  | .shr _ _ => 0xF00F#16
  | .subn _ _ => 0xF00F#16
  | .shl _ _ => 0xF00F#16
  | .nop8 _ _ _ => 0xF000#16
  | .sneReg _ _ => 0xF00F#16
  | .nop9 _ _ _ => 0xF000#16
  | .ldI _ => 0xF000#16
  | .jpV0 _ => 0xF000#16
  | .rnd _ _ => 0xF000#16
  | .drw _ _ _ => 0xF000#16
  | .skp _ => 0xF0FF#16
  | .sknp _ => 0xF0FF#16
  | .nopE _ _ => 0xF000#16
  | .ldVxDt _ => 0xF0FF#16
  | .ldVxK _ => 0xF0FF#16
  | .ldDt _ => 0xF0FF#16
  | .ldSt _ => 0xF0FF#16
  | .addI _ => 0xF0FF#16
  | .ldF _ => 0xF0FF#16
  | .bcd _ => 0xF0FF#16
  | .store _ => 0xF0FF#16
  | .load _ => 0xF0FF#16
  | .nopF _ _ => 0xF000#16

/-- The fixed bits of an instruction's row in spec/opcode_table.json. -/
def rowPattern : Instr → Word
  | .cls => 0x00E0#16
  | .ret => 0x00EE#16
  | .sys _ => 0x0000#16
  | .jp _ => 0x1000#16
  | .call _ => 0x2000#16
  | .seImm _ _ => 0x3000#16
  | .sneImm _ _ => 0x4000#16
  | .seReg _ _ => 0x5000#16
  | .nop5 _ _ _ => 0x5000#16
  | .ldImm _ _ => 0x6000#16
  | .addImm _ _ => 0x7000#16
  | .ldReg _ _ => 0x8000#16
  | .orReg _ _ => 0x8001#16
  | .andReg _ _ => 0x8002#16
  | .xorReg _ _ => 0x8003#16
  | .addReg _ _ => 0x8004#16
  | .sub _ _ => 0x8005#16
  | .shr _ _ => 0x8006#16
  | .subn _ _ => 0x8007#16
  | .shl _ _ => 0x800E#16
  | .nop8 _ _ _ => 0x8000#16
  | .sneReg _ _ => 0x9000#16
  | .nop9 _ _ _ => 0x9000#16
  | .ldI _ => 0xA000#16
  | .jpV0 _ => 0xB000#16
  | .rnd _ _ => 0xC000#16
  | .drw _ _ _ => 0xD000#16
  | .skp _ => 0xE09E#16
  | .sknp _ => 0xE0A1#16
  | .nopE _ _ => 0xE000#16
  | .ldVxDt _ => 0xF007#16
  | .ldVxK _ => 0xF00A#16
  | .ldDt _ => 0xF015#16
  | .ldSt _ => 0xF018#16
  | .addI _ => 0xF01E#16
  | .ldF _ => 0xF029#16
  | .bcd _ => 0xF033#16
  | .store _ => 0xF055#16
  | .load _ => 0xF065#16
  | .nopF _ _ => 0xF000#16

/-- The encoder's word matches the instruction's row. -/
def RowMatch.Statement (i : Instr) : Prop := encode i &&& rowMask i = rowPattern i

theorem RowMatch.cls : RowMatch.Statement .cls := rfl
theorem RowMatch.ret : RowMatch.Statement .ret := rfl
theorem RowMatch.sys (nnn : Addr) : RowMatch.Statement (.sys nnn) := formatNNN_and 0x0#4 nnn
theorem RowMatch.jp (nnn : Addr) : RowMatch.Statement (.jp nnn) := formatNNN_and 0x1#4 nnn
theorem RowMatch.call (nnn : Addr) : RowMatch.Statement (.call nnn) := formatNNN_and 0x2#4 nnn
theorem RowMatch.seImm (x : Reg) (nn : Byte) : RowMatch.Statement (.seImm x nn) := formatXNN_and 0x3#4 x nn
theorem RowMatch.sneImm (x : Reg) (nn : Byte) : RowMatch.Statement (.sneImm x nn) := formatXNN_and 0x4#4 x nn
theorem RowMatch.seReg (x : Reg) (y : Reg) : RowMatch.Statement (.seReg x y) := formatXYN_andSelector 0x5#4 x y 0x0#4
theorem RowMatch.nop5 (x : Reg) (y : Reg) (n : Nibble) : RowMatch.Statement (.nop5 x y n) := formatXYN_and 0x5#4 x y n
theorem RowMatch.ldImm (x : Reg) (nn : Byte) : RowMatch.Statement (.ldImm x nn) := formatXNN_and 0x6#4 x nn
theorem RowMatch.addImm (x : Reg) (nn : Byte) : RowMatch.Statement (.addImm x nn) := formatXNN_and 0x7#4 x nn
theorem RowMatch.ldReg (x : Reg) (y : Reg) : RowMatch.Statement (.ldReg x y) := formatXYN_andSelector 0x8#4 x y 0x0#4
theorem RowMatch.orReg (x : Reg) (y : Reg) : RowMatch.Statement (.orReg x y) := formatXYN_andSelector 0x8#4 x y 0x1#4
theorem RowMatch.andReg (x : Reg) (y : Reg) : RowMatch.Statement (.andReg x y) := formatXYN_andSelector 0x8#4 x y 0x2#4
theorem RowMatch.xorReg (x : Reg) (y : Reg) : RowMatch.Statement (.xorReg x y) := formatXYN_andSelector 0x8#4 x y 0x3#4
theorem RowMatch.addReg (x : Reg) (y : Reg) : RowMatch.Statement (.addReg x y) := formatXYN_andSelector 0x8#4 x y 0x4#4
theorem RowMatch.sub (x : Reg) (y : Reg) : RowMatch.Statement (.sub x y) := formatXYN_andSelector 0x8#4 x y 0x5#4
theorem RowMatch.shr (x : Reg) (y : Reg) : RowMatch.Statement (.shr x y) := formatXYN_andSelector 0x8#4 x y 0x6#4
theorem RowMatch.subn (x : Reg) (y : Reg) : RowMatch.Statement (.subn x y) := formatXYN_andSelector 0x8#4 x y 0x7#4
theorem RowMatch.shl (x : Reg) (y : Reg) : RowMatch.Statement (.shl x y) := formatXYN_andSelector 0x8#4 x y 0xE#4
theorem RowMatch.nop8 (x : Reg) (y : Reg) (n : Nibble) : RowMatch.Statement (.nop8 x y n) := formatXYN_and 0x8#4 x y n
theorem RowMatch.sneReg (x : Reg) (y : Reg) : RowMatch.Statement (.sneReg x y) := formatXYN_andSelector 0x9#4 x y 0x0#4
theorem RowMatch.nop9 (x : Reg) (y : Reg) (n : Nibble) : RowMatch.Statement (.nop9 x y n) := formatXYN_and 0x9#4 x y n
theorem RowMatch.ldI (nnn : Addr) : RowMatch.Statement (.ldI nnn) := formatNNN_and 0xA#4 nnn
theorem RowMatch.jpV0 (nnn : Addr) : RowMatch.Statement (.jpV0 nnn) := formatNNN_and 0xB#4 nnn
theorem RowMatch.rnd (x : Reg) (nn : Byte) : RowMatch.Statement (.rnd x nn) := formatXNN_and 0xC#4 x nn
theorem RowMatch.drw (x : Reg) (y : Reg) (n : Nibble) : RowMatch.Statement (.drw x y n) := formatXYN_and 0xD#4 x y n
theorem RowMatch.skp (x : Reg) : RowMatch.Statement (.skp x) := formatXNN_andSelector 0xE#4 x 0x9E#8
theorem RowMatch.sknp (x : Reg) : RowMatch.Statement (.sknp x) := formatXNN_andSelector 0xE#4 x 0xA1#8
theorem RowMatch.nopE (x : Reg) (nn : Byte) : RowMatch.Statement (.nopE x nn) := formatXNN_and 0xE#4 x nn
theorem RowMatch.ldVxDt (x : Reg) : RowMatch.Statement (.ldVxDt x) := formatXNN_andSelector 0xF#4 x 0x7#8
theorem RowMatch.ldVxK (x : Reg) : RowMatch.Statement (.ldVxK x) := formatXNN_andSelector 0xF#4 x 0xA#8
theorem RowMatch.ldDt (x : Reg) : RowMatch.Statement (.ldDt x) := formatXNN_andSelector 0xF#4 x 0x15#8
theorem RowMatch.ldSt (x : Reg) : RowMatch.Statement (.ldSt x) := formatXNN_andSelector 0xF#4 x 0x18#8
theorem RowMatch.addI (x : Reg) : RowMatch.Statement (.addI x) := formatXNN_andSelector 0xF#4 x 0x1E#8
theorem RowMatch.ldF (x : Reg) : RowMatch.Statement (.ldF x) := formatXNN_andSelector 0xF#4 x 0x29#8
theorem RowMatch.bcd (x : Reg) : RowMatch.Statement (.bcd x) := formatXNN_andSelector 0xF#4 x 0x33#8
theorem RowMatch.store (x : Reg) : RowMatch.Statement (.store x) := formatXNN_andSelector 0xF#4 x 0x55#8
theorem RowMatch.load (x : Reg) : RowMatch.Statement (.load x) := formatXNN_andSelector 0xF#4 x 0x65#8
theorem RowMatch.nopF (x : Reg) (nn : Byte) : RowMatch.Statement (.nopF x nn) := formatXNN_and 0xF#4 x nn

end Sys2Proof.Laws
end

