-- ==== Sys2Proof/Laws/Step.lean ====
section
/-!
SUPPORT. What one step can do, said once: the core's step, the agenda, the fetch, the timer, the host's operations.
-/

namespace Sys2Proof.Machine

variable (s : State)

/-! ### Fetch -/

theorem State.canFetch_iff : s.canFetch = true ↔ s.pc.toNat ≤ 0xFFE := decide_eq_true_iff

/-- A fetch that passed the bound check reads its two bytes. -/
theorem State.fetchWord_eq (h : s.pc.toNat ≤ 0xFFE) :
    s.fetchWord = some (wordOfBytes (s.mem.read s.pc.toNat) (s.mem.read (s.pc.toNat + 1))) := by
  have h1 : s.pc.toNat < Config.memSize := by unfold Config.memSize; omega
  have h2 : s.pc.toNat + 1 < Config.memSize := by unfold Config.memSize; omega
  simp [State.fetchWord, State.byteAt, h1, h2]

/-- The core's step: nothing unless Running, the halt of an out-of-bounds fetch, or `run` of the fetched instruction. -/
theorem coreStepBy_cases (run : Instr → State → Host.Outcome State Fault Refusal) :
    (s.run ≠ .running ∧ coreStepBy run s = .next s) ∨
    (s.run = .running ∧ 0xFFE < s.pc.toNat ∧ coreStepBy run s = .next s.haltOutOfBounds) ∨
    (s.run = .running ∧ s.pc.toNat ≤ 0xFFE ∧
      ∃ w, s.fetchWord = some w ∧ coreStepBy run s = run (decodeWord w) s.advancePc) := by
  by_cases hr : s.run = .running
  · by_cases hp : s.pc.toNat ≤ 0xFFE
    · refine .inr (.inr ⟨hr, hp, _, s.fetchWord_eq hp, ?_⟩)
      simp [coreStepBy, hr, (s.canFetch_iff).2 hp, s.fetchWord_eq hp]
    · have : s.canFetch = false := by simpa using mt s.canFetch_iff.1 hp
      exact .inr (.inl ⟨hr, by omega, by simp [coreStepBy, hr, this]⟩)
  · exact .inl ⟨hr, by simp [coreStepBy, hr]⟩

theorem coreStep_cases :
    (s.run ≠ .running ∧ coreStep s = .next s) ∨
    (s.run = .running ∧ 0xFFE < s.pc.toNat ∧ coreStep s = .next s.haltOutOfBounds) ∨
    (s.run = .running ∧ s.pc.toNat ≤ 0xFFE ∧
      ∃ w, s.fetchWord = some w ∧ coreStep s = exec (decodeWord w) s.advancePc) :=
  coreStepBy_cases s exec

/-! ### The agenda -/

theorem step_nil {s : State} (h : s.agenda = []) : step s = coreStep s := by simp [step, h]

theorem step_cons {s : State} {e : Event} {rest : List Event} (h : s.agenda = e :: rest) :
    step s = applyEvent e (s.setAgenda rest) := by simp [step, h]

@[simp] theorem State.setAgenda_self : s.setAgenda s.agenda = s := rfl

/-- With the core's move next, a step is the core's step on the state with that move taken off the agenda. -/
theorem step_core {s : State} (h : s.agenda = [] ∨ s.agenda.head? = some .core) :
    step s = coreStep (s.setAgenda s.agenda.tail) := by
  cases hl : s.agenda with
  | nil =>
    rw [step_nil hl]; congr 1; rw [List.tail_nil, ← hl]; rfl
  | cons e rest =>
    rw [hl] at h
    have : e = .core := by simpa using h
    rw [step_cons hl, this]; rfl

/-! ### The Timer Unit -/

theorem countDown_toNat (c : Byte) : (countDown c).toNat = c.toNat - 1 := by
  by_cases h : c = 0#8
  · simp [countDown, h]
  · have h0 : c.toNat ≠ 0 := fun e => h (BitVec.eq_of_toNat_eq (by simpa using e))
    have := c.isLt
    simp only [countDown, h, if_false]
    bv_omega

theorem State.ticks_dt (n : Nat) : (s.ticks n).dt.toNat = s.dt.toNat - n := by
  induction n with
  | zero => simp [State.ticks]
  | succ n ih => simp [State.ticks, countDown_toNat, ih]; omega

theorem State.ticks_st (n : Nat) : (s.ticks n).st.toNat = s.st.toNat - n := by
  induction n with
  | zero => simp [State.ticks]
  | succ n ih => simp [State.ticks, countDown_toNat, ih]; omega

/-- Ticks change the two counters alone (60_exceptions.md R132). -/
theorem State.ticks_eq (n : Nat) : s.ticks n = { s with dt := (s.ticks n).dt, st := (s.ticks n).st } := by
  induction n with
  | zero => rfl
  | succ n ih => rw [State.ticks, ih]; rfl

/-! ### The host -/

/-- A press in a wait writes the pending register and ends the wait; otherwise nothing (R133). -/
theorem State.resolveWait_cases (k : Nibble) :
    (∃ x, s.run = .blocked ∧ s.pending = some x ∧ s.resolveWait k = (s.setReg x (k.setWidth 8)).endWait) ∨
    ((s.run ≠ .blocked ∨ s.pending = none) ∧ s.resolveWait k = s) := by
  cases hr : s.run <;> cases hp : s.pending <;> simp [State.resolveWait, hr, hp]

theorem setKeyState_inRange {code : Nat} (p : Bool) (h : code < 16) :
    setKeyState code p s =
      .next ((if p then s.resolveWait (BitVec.ofNat 4 code) else s).setKey (BitVec.ofNat 4 code) p) := by
  simp [setKeyState, Nat.not_le.2 h]

/-- The host's halt: Halted with no wait pending, or a refusal before construction completes (R125). -/
theorem hostHalt_cases :
    ((s.run = .running ∨ s.run = .blocked) ∧ hostHalt s = .next s.stop) ∨
    (s.run = .halted ∧ hostHalt s = .next s) ∨
    (s.run = .loading ∧ hostHalt s = .refused .haltWhileLoading) := by
  cases hr : s.run <;> simp [hostHalt, hr]

/-! ### Inductions packaged once -/

/-- One turn of the burst's loop: it returns, or the window has not elapsed and one step is made. -/
theorem frameLoopBy_cons {α : Type} (one : α → State → Host.Outcome State Fault Refusal) (budget : Nat) (entry : α)
    (later : List α) (count : Nat) :
    frameLoopBy one budget (entry :: later) count s =
      if s.run ≠ .running then .next (s, count)
      else if budget ≠ 0 ∧ count = budget then .next (s, count)
      else
        match one entry s with
        | .next t => frameLoopBy one budget later (count + 1) t
        | .fault r => .fault r
        | .refused r => .refused r :=
  frameLoopBy.eq_def one budget (entry :: later) count s

/-- Where the window has elapsed the burst returns at once. -/
@[simp] theorem frameLoopBy_nil {α : Type} (one : α → State → Host.Outcome State Fault Refusal) (budget count : Nat) :
    frameLoopBy one budget [] count s = .next (s, count) := by
  unfold frameLoopBy
  split <;> (try rfl)
  split <;> rfl

theorem frameLoop_cons (budget k : Nat) (later : List Nat) (count : Nat) :
    frameLoop budget (k :: later) count s =
      if s.run ≠ .running then .next (s, count)
      else if budget ≠ 0 ∧ count = budget then .next (s, count)
      else
        match coreStep (s.ticks k) with
        | .next t => frameLoop budget later (count + 1) t
        | .fault r => .fault r
        | .refused r => .refused r :=
  frameLoopBy_cons s tickedStep budget k later count

@[simp] theorem frameLoop_nil (budget count : Nat) : frameLoop budget [] count s = .next (s, count) :=
  frameLoopBy_nil s tickedStep budget count

/-- What ticks and the core's step keep, a burst keeps. -/
theorem frameLoop_keeps (P : State → Prop) (tick : ∀ s, P s → P s.tick)
    (core : ∀ s t, P s → coreStep s = .next t → P t) (budget : Nat) (window : List Nat) :
    ∀ count s t n, P s → frameLoop budget window count s = .next (t, n) → P t := by
  have ticks : ∀ s k, P s → P (s.ticks k) := by
    intro s k hs
    induction k with
    | zero => exact hs
    | succ k ih => exact tick _ ih
  induction window with
  | nil =>
    intro count s t n hs h
    rw [frameLoop_nil] at h
    cases h; exact hs
  | cons k later ih =>
    intro count s t n hs h
    rw [frameLoop_cons] at h
    split at h
    · cases h; exact hs
    split at h
    · cases h; exact hs
    split at h
    · rename_i u hu
      exact ih _ _ _ _ (core _ _ (ticks _ _ hs) hu) h
    · cases h
    · cases h

/-- What every event keeps, and taking an entry off the agenda keeps, a step keeps. -/
theorem step_keeps (P : State → Prop) (agenda : ∀ s l, P s → P (s.setAgenda l))
    (event : ∀ e s t, P s → applyEvent e s = .next t → P t) {s t : State} (hs : P s) (h : step s = .next t) : P t := by
  cases ha : s.agenda with
  | nil => exact event .core s t hs (by rwa [step_nil ha] at h)
  | cons e rest => exact event e _ t (agenda s rest hs) (by rwa [step_cons ha] at h)

/-- The core's move next, an instruction fetched: the state that the host's check builds runs exactly the word it stores
(log 8). -/
theorem step_withFetchWord (w : Word) :
    step (s.withFetchWord 16 w.toNat) = exec (decodeWord w) ((s.withFetchWord 16 w.toNat).setAgenda s.agenda).advancePc := by
  have hpc : (s.withFetchWord 16 w.toNat).pc.toNat ≤ 0xFFE := by
    by_cases h : s.canFetch
    · simpa [State.withFetchWord, h] using s.canFetch_iff.1 h
    · simp [State.withFetchWord, h, Config.loadBase]
  have hw : tableWord 16 w.toNat = w := by simp [tableWord, Nat.mod_eq_of_lt w.isLt]
  have hf : ((s.withFetchWord 16 w.toNat).setAgenda s.agenda).fetchWord = some w := by
    rw [State.setAgenda_fetchWord, State.fetchWord_eq _ hpc]
    simp only [State.withFetchWord, hw, Memory.read_write_same]
    rw [Memory.read_write_ne _ _ (by omega), Memory.read_write_same, wordOfBytes_bytes]
  rw [step_cons (rest := s.agenda) (e := .core) rfl, applyEvent]
  rcases coreStep_cases ((s.withFetchWord 16 w.toNat).setAgenda s.agenda) with ⟨h, _⟩ | ⟨_, h, _⟩ | ⟨_, _, w', hw', e⟩
  · exact absurd rfl h
  · exact absurd hpc (by simpa using h)
  · rw [e]; rw [hf] at hw'; cases hw'; rfl

end Sys2Proof.Machine
end

