-- ==== Sys2Proof/Laws/Relation.lean ====
section
/-!
SUPPORT. The carriers of State decide nothing but the inputs (10_state.md R36): an instruction run with its random byte as
an argument does to the tuple of R14 what `exec` does with the byte of the draw count.
-/

namespace Sys2Proof.Machine

/-- A state is its architectural part and its two carriers. -/
theorem State.eq_bare (s : State) : s = { s.toArch.bare with draws := s.draws, agenda := s.agenda } := rfl

@[simp] theorem Arch.bare_toArch (a : Arch) : a.bare.toArch = a := rfl
@[simp] theorem archOf_next (t : State) : archOf (.next t) = .next t.toArch := rfl

/-- A return, on the tuple. -/
theorem State.popToPc_toArch (s : State) : s.popToPc.toArch = s.toArch.bare.popToPc.toArch := by
  rcases s.popToPc_cases with ⟨h, e⟩ | ⟨l, a, h, e⟩
  · rw [e, State.popToPc_nil (s := s.toArch.bare) h]; rfl
  · rw [e, State.popToPc_concat (s := s.toArch.bare) h]; rfl

/-- A skip, on the tuple. -/
theorem State.skipIf_toArch (s : State) (c : Bool) : (s.skipIf c).toArch = (s.toArch.bare.skipIf c).toArch := by
  have h : s.toArch.bare.canFetch = s.canFetch := rfl
  cases c
  · rfl
  · by_cases hf : s.canFetch = true
    · simp [State.skipIf, State.skipNext, h, hf]; rfl
    · simp [State.skipIf, State.skipNext, h, hf]; rfl

/-- A block store, on the tuple. -/
theorem State.storeBlock_toArch (s : State) (n : Nat) : (s.storeBlock n).toArch = (s.toArch.bare.storeBlock n).toArch := by
  induction n with
  | zero => rfl
  | succ n ih => simp only [State.storeBlock, State.writeByte]; rw [ih]; rfl

/-- A block load, on the tuple. -/
theorem State.loadBlock_toArch (s : State) (n : Nat) : (s.loadBlock n).toArch = (s.toArch.bare.loadBlock n).toArch := by
  induction n with
  | zero => rfl
  | succ n ih => simp only [State.loadBlock, State.setReg]; rw [ih]; rfl

/-- What an instruction does to the tuple under a given random byte, the tuple alone decides. -/
theorem execOn_archOf (draw : Byte) (i : Instr) (s : State) :
    archOf (execOn draw i s) = archOf (execOn draw i s.toArch.bare) := by
  cases i
  case ret => exact congrArg Host.Outcome.next s.popToPc_toArch
  case seImm => exact congrArg Host.Outcome.next (s.skipIf_toArch _)
  case sneImm => exact congrArg Host.Outcome.next (s.skipIf_toArch _)
  case seReg => exact congrArg Host.Outcome.next (s.skipIf_toArch _)
  case sneReg => exact congrArg Host.Outcome.next (s.skipIf_toArch _)
  case skp => exact congrArg Host.Outcome.next (s.skipIf_toArch _)
  case sknp => exact congrArg Host.Outcome.next (s.skipIf_toArch _)
  case store x =>
    exact congrArg (fun a : Arch => Host.Outcome.next { a with i := s.dataAddr (x.toNat + 1) }) (s.storeBlock_toArch _)
  case load x =>
    exact congrArg (fun a : Arch => Host.Outcome.next { a with i := s.dataAddr (x.toNat + 1) }) (s.loadBlock_toArch _)
  all_goals rfl

/-- `exec` is `execOn` at the byte of the draw count. -/
theorem exec_archOf (i : Instr) (s : State) : archOf (exec i s) = archOf (execOn s.drawnByte i s) := by
  cases i <;> rfl

/-- The core's step under a given random byte, the tuple alone decides. -/
theorem coreStepOn_archOf (draw : Byte) (s : State) :
    archOf (coreStepOn draw s) = archOf (coreStepOn draw s.toArch.bare) := by
  have hc : s.toArch.bare.canFetch = s.canFetch := rfl
  have hf : s.toArch.bare.fetchWord = s.fetchWord := rfl
  have hr : s.toArch.bare.run = s.run := rfl
  unfold coreStepOn coreStepBy
  rw [hc, hf, hr]
  split
  · rfl
  split
  · rfl
  split
  · rfl
  · exact execOn_archOf draw _ s.advancePc

/-- The core's step takes the byte of the draw count. -/
theorem coreStep_archOf (s : State) : archOf (coreStep s) = archOf (coreStepOn s.drawnByte s) := by
  unfold coreStep coreStepOn coreStepBy
  split
  · rfl
  split
  · rfl
  split
  · rfl
  · exact exec_archOf _ s.advancePc

end Sys2Proof.Machine
end

