-- ==== Sys2Proof/Laws/Schedule.lean ====
section
/-!
SUPPORT. Runs of a schedule and their ticks (60_exceptions.md R129).
-/

namespace Sys2Proof.Machine

variable (schedule : Nat → Event) (s : State)

theorem ticksInRun_le_add (n m : Nat) : ticksInRun schedule s n ≤ ticksInRun schedule s (n + m) := by
  induction m with
  | zero => exact Nat.le_refl _
  | succ m ih => rw [← Nat.add_assoc, ticksInRun]; omega

/-- A fair run never stops. -/
theorem FairRun.next (h : FairRun schedule s) (n : Nat) : ∃ t, runSchedule schedule s n = .next t := by
  by_contra hn
  have stopped : ∀ m, (¬∃ t, runSchedule schedule s (n + m) = .next t) ∧
      ticksInRun schedule s (n + m) = ticksInRun schedule s n := by
    intro m
    induction m with
    | zero => exact ⟨hn, rfl⟩
    | succ m ih =>
      rw [← Nat.add_assoc, runSchedule, ticksInRun, ih.2]
      cases hr : runSchedule schedule s (n + m) with
      | next t => exact absurd ⟨t, hr⟩ ih.1
      | fault r => simp
      | refused r => simp
  obtain ⟨m, hm⟩ := h (ticksInRun schedule s n + 1)
  rcases Nat.le_total n m with hle | hle
  · have := (stopped (m - n)).2
    rw [Nat.add_sub_cancel' hle] at this; omega
  · have := ticksInRun_le_add schedule s m (n - m)
    rw [Nat.add_sub_cancel' hle] at this; omega

/-- A run is fair when every event of it, from the states it meets, goes on and has a tick in it. -/
theorem fairRun_of_ticks (P : State → Prop) (start : P s)
    (event : ∀ n t, P t → ∃ u, applyEvent (schedule n) t = .next u ∧ P u ∧ 1 ≤ ticksIn (schedule n) t) :
    FairRun schedule s := by
  have run : ∀ n, ∃ t, runSchedule schedule s n = .next t ∧ P t ∧ n ≤ ticksInRun schedule s n := by
    intro n
    induction n with
    | zero => exact ⟨s, rfl, start, Nat.le_refl _⟩
    | succ n ih =>
      obtain ⟨t, ht, hp, hn⟩ := ih
      obtain ⟨u, hu, hq, hk⟩ := event n t hp
      exact ⟨u, by rw [runSchedule, ht]; exact hu, hq, by simp only [ticksInRun, ht]; omega⟩
  intro k
  obtain ⟨_, _, _, hk⟩ := run k
  exact ⟨k, hk⟩

end Sys2Proof.Machine
end

