-- ==== Sys2Proof/Tests/Slice0.lean ====
section
/-!
SUPPORT. The model's own tests and the witnesses of its statements. Expected results are those of spec/95_test_vectors.md,
whose vector each test names, or words written out from spec/30_encoding.md R62.
-/

namespace Sys2Proof.Tests

open Sys2Proof Sys2Proof.Machine

/-! ## Helpers -/

/-- `s` with a word at PC, high half first. -/
def placed (w : Word) (s : State) : State :=
  { s with mem := (s.mem.write s.pc.toNat (firstByte w)).write (s.pc.toNat + 1) (secondByte w) }

/-- `s` with some registers set. -/
def regs (l : List (Reg × Byte)) (s : State) : State := l.foldl (fun t p => t.setReg p.1 p.2) s

/-- `s` with bytes in Memory from an address up. -/
def bytes : Nat → List Byte → State → State
  | _, [], s => s
  | a, b :: rest, s => bytes (a + 1) rest { s with mem := s.mem.write a b }

/-- What a look at the next state shows, where there is one. -/
def look {σ α : Type} (f : σ → α) (o : Host.Outcome σ Fault Refusal) : Option α :=
  match o with
  | .next t => some (f t)
  | .fault _ => none
  | .refused _ => none

/-- One step with a word at PC. -/
def run {α : Type} (w : Word) (s : State) (f : State → α) : Option α := look f (step (placed w s))

/-- One event. -/
def event {α : Type} (e : Event) (s : State) (f : State → α) : Option α := look f (step (s.setAgenda [e]))

/-- The reset state at another PC. -/
def at' (pc : PcVal) : State := State.reset.setPc pc

/-- The engine waiting for a key into V3 (vector K7). -/
def waiting : State := (State.reset.setPc 0x202#13).beginWait 0x3#4

/-- The engine Halted. -/
def stopped : State := State.reset.stop

/-- The engine parked at 0x200 on `12 00` (W10). -/
def parkedState : State := placed 0x1200#16 State.reset

/-! ## WellFormed: an ill-formed term for each check -/

theorem test_wf_sys_refuses_cls : (Instr.sys 0x0E0#12).wf = false := by decide
theorem test_wf_sys_refuses_ret : (Instr.sys 0x0EE#12).wf = false := by decide
theorem test_wf_nop5_refuses_zero : (Instr.nop5 1#4 2#4 0#4).wf = false := by decide
theorem test_wf_nop8_refuses_selectors :
    (family8Selectors.all fun n => !(Instr.nop8 1#4 2#4 n).wf) = true := by decide
theorem test_wf_nop9_refuses_zero : (Instr.nop9 1#4 2#4 0#4).wf = false := by decide
theorem test_wf_nopE_refuses_selectors : (familyESelectors.all fun nn => !(Instr.nopE 1#4 nn).wf) = true := by decide
theorem test_wf_nopF_refuses_selectors : (familyFSelectors.all fun nn => !(Instr.nopF 1#4 nn).wf) = true := by decide
theorem test_wf_accepts :
    (Instr.sys 0x0E1#12).wf = true ∧ (Instr.nop8 1#4 2#4 0xF#4).wf = true ∧ (Instr.nopF 1#4 0x66#8).wf = true := by
  decide

/-! ## Decode: a word written out from R62 for every constructor -/

theorem test_decode_family0 :
    decodeWord 0b0000000011100000#16 = .cls ∧ decodeWord 0b0000000011101110#16 = .ret ∧
    decodeWord 0b0000000011101111#16 = .sys 0x0EF#12 := by decide
theorem test_decode_families_1_to_4 :
    decodeWord 0b0001101010111100#16 = .jp 0xABC#12 ∧ decodeWord 0b0010001100000000#16 = .call 0x300#12 ∧
    decodeWord 0b0011001101000010#16 = .seImm 0x3#4 0x42#8 ∧
    decodeWord 0b0100001101000001#16 = .sneImm 0x3#4 0x41#8 := by decide
theorem test_decode_family5 :
    decodeWord 0b0101000100100000#16 = .seReg 0x1#4 0x2#4 ∧
    decodeWord 0b0101000100100001#16 = .nop5 0x1#4 0x2#4 0x1#4 := by decide
theorem test_decode_families_6_7 :
    decodeWord 0b0110101011111110#16 = .ldImm 0xA#4 0xFE#8 ∧
    decodeWord 0b0111101000000001#16 = .addImm 0xA#4 0x01#8 := by decide
theorem test_decode_family8_low :
    decodeWord 0b1000000100100000#16 = .ldReg 0x1#4 0x2#4 ∧ decodeWord 0b1000000100100001#16 = .orReg 0x1#4 0x2#4 ∧
    decodeWord 0b1000000100100010#16 = .andReg 0x1#4 0x2#4 ∧ decodeWord 0b1000000100100011#16 = .xorReg 0x1#4 0x2#4 ∧
    decodeWord 0b1000000100100100#16 = .addReg 0x1#4 0x2#4 := by decide
theorem test_decode_family8_high :
    decodeWord 0b1000000100100101#16 = .sub 0x1#4 0x2#4 ∧ decodeWord 0b1000000100100110#16 = .shr 0x1#4 0x2#4 ∧
    decodeWord 0b1000000100100111#16 = .subn 0x1#4 0x2#4 ∧ decodeWord 0b1000000100101110#16 = .shl 0x1#4 0x2#4 ∧
    decodeWord 0b1000000100101111#16 = .nop8 0x1#4 0x2#4 0xF#4 := by decide
theorem test_decode_family9 :
    decodeWord 0b1001000100100000#16 = .sneReg 0x1#4 0x2#4 ∧
    decodeWord 0b1001000100101111#16 = .nop9 0x1#4 0x2#4 0xF#4 := by decide
theorem test_decode_families_A_to_D :
    decodeWord 0b1010000100100011#16 = .ldI 0x123#12 ∧ decodeWord 0b1011001100000000#16 = .jpV0 0x300#12 ∧
    decodeWord 0b1100000000001111#16 = .rnd 0x0#4 0x0F#8 ∧
    decodeWord 0b1101000000010101#16 = .drw 0x0#4 0x1#4 0x5#4 := by decide
theorem test_decode_familyE :
    decodeWord 0b1110001010011110#16 = .skp 0x2#4 ∧ decodeWord 0b1110001010100001#16 = .sknp 0x2#4 ∧
    decodeWord 0b1110001010011111#16 = .nopE 0x2#4 0x9F#8 := by decide
theorem test_decode_familyF_low :
    decodeWord 0b1111000100000111#16 = .ldVxDt 0x1#4 ∧ decodeWord 0b1111000100001010#16 = .ldVxK 0x1#4 ∧
    decodeWord 0b1111000100010101#16 = .ldDt 0x1#4 ∧ decodeWord 0b1111000100011000#16 = .ldSt 0x1#4 ∧
    decodeWord 0b1111000100011110#16 = .addI 0x1#4 := by decide
theorem test_decode_familyF_high :
    decodeWord 0b1111000100101001#16 = .ldF 0x1#4 ∧ decodeWord 0b1111000100110011#16 = .bcd 0x1#4 ∧
    decodeWord 0b1111000101010101#16 = .store 0x1#4 ∧ decodeWord 0b1111000101100101#16 = .load 0x1#4 ∧
    decodeWord 0b1111000100011001#16 = .nopF 0x1#4 0x19#8 := by decide
theorem test_decode_bytes : decode [0x6A#8, 0x2B#8, 0x7F#8] = .ok (.ldImm 0xA#4 0x2B#8, [0x7F#8]) := by decide
theorem test_decodeTableWord : decodeTableWord 16 0xD015 = some (.drw 0x0#4 0x1#4 0x5#4) := by decide

/-! ## Fetch and control (vectors S and C) -/

theorem test_S1_sys : run 0x0000#16 State.reset (fun t => (t.pc, t.run)) = some (0x202#13, .running) := by decide
theorem test_S4_S5_last_word :
    run 0x6001#16 (at' 0xFFE#13) (fun t => (t.reg 0#4, t.pc, t.run)) = some (0x01#8, 0x1000#13, .running) ∧
    look (fun t => (t.pc, t.run)) (step (at' 0x1000#13)) = some (0x1000#13, .halted) := by decide
theorem test_S6_fetch_at_FFF : look (fun t => (t.pc, t.run)) (step (at' 0xFFF#13)) = some (0xFFF#13, .halted) := by decide
theorem test_S7_odd_pc : run 0x602A#16 (at' 0x201#13) (fun t => (t.reg 0#4, t.pc)) = some (0x2A#8, 0x203#13) := by decide
theorem test_C1_jp : run 0x1ABC#16 State.reset (fun t => t.pc) = some 0xABC#13 := by decide
theorem test_C4_call : run 0x2300#16 State.reset (fun t => (t.pc, t.stack)) = some (0x300#13, [0x202#13]) := by decide
theorem test_C5_ret :
    run 0x00EE#16 ((at' 0x300#13).push 0x202#13) (fun t => (t.pc, t.stack)) = some (0x202#13, []) := by decide
theorem test_C6_ret_empty : run 0x00EE#16 State.reset (fun t => (t.pc, t.stack)) = some (0x202#13, []) := by decide
theorem test_C8_jpV0 : run 0xB300#16 (regs [(0#4, 0x10#8)] State.reset) (fun t => t.pc) = some 0x310#13 := by decide
theorem test_C9_jpV0_no_wrap :
    run 0xBFFF#16 (regs [(0#4, 0xFF#8)] State.reset) (fun t => t.pc) = some 0x10FE#13 := by decide
theorem test_C10_skip_at_FFC :
    run 0x3342#16 (regs [(3#4, 0x42#8)] (at' 0xFFC#13)) (fun t => (t.pc, t.run)) = some (0x1000#13, .running) := by
  decide
theorem test_C11_skip_halts :
    run 0x3342#16 (regs [(3#4, 0x42#8)] (at' 0xFFE#13)) (fun t => (t.pc, t.run)) = some (0x1000#13, .halted) := by
  decide
theorem test_C16_sneImm_equal : run 0x4342#16 (regs [(3#4, 0x42#8)] State.reset) (fun t => t.pc) = some 0x202#13 := by
  decide
theorem test_C17_sneImm_skips : run 0x4341#16 (regs [(3#4, 0x42#8)] State.reset) (fun t => t.pc) = some 0x204#13 := by
  decide
theorem test_C18_seReg : run 0x5120#16 (regs [(1#4, 7#8), (2#4, 7#8)] State.reset) (fun t => t.pc) = some 0x204#13 := by
  decide
theorem test_C20_nop5 : run 0x5121#16 (regs [(1#4, 7#8), (2#4, 7#8)] State.reset) (fun t => t.pc) = some 0x202#13 := by
  decide
theorem test_C21_sneReg : run 0x9120#16 (regs [(1#4, 7#8), (2#4, 8#8)] State.reset) (fun t => t.pc) = some 0x204#13 := by
  decide
theorem test_C23_nop9 : run 0x912F#16 (regs [(1#4, 7#8), (2#4, 8#8)] State.reset) (fun t => t.pc) = some 0x202#13 := by
  decide

/-! ## Arithmetic and logic (vectors A) -/

theorem test_A1_ldImm : run 0x6AFF#16 State.reset (fun t => t.reg 0xA#4) = some 0xFF#8 := by decide
theorem test_A2_addImm :
    run 0x7A01#16 (regs [(0xA#4, 0xFF#8), (0xF#4, 7#8)] State.reset) (fun t => (t.reg 0xA#4, t.reg 0xF#4)) =
      some (0x00#8, 7#8) := by decide
theorem test_A4_ldReg :
    run 0x8010#16 (regs [(1#4, 0x55#8)] State.reset) (fun t => (t.reg 0#4, t.reg 1#4)) = some (0x55#8, 0x55#8) := by
  decide
theorem test_A5_or :
    run 0x8011#16 (regs [(0#4, 0xF0#8), (1#4, 0x0F#8), (0xF#4, 0x33#8)] State.reset)
      (fun t => (t.reg 0#4, t.reg 0xF#4)) = some (0xFF#8, 0x33#8) := by decide
theorem test_A6_and :
    run 0x8012#16 (regs [(0#4, 0xF0#8), (1#4, 0x3C#8), (0xF#4, 0x33#8)] State.reset)
      (fun t => (t.reg 0#4, t.reg 0xF#4)) = some (0x30#8, 0x33#8) := by decide
theorem test_A7_xor :
    run 0x8013#16 (regs [(0#4, 0xFF#8), (1#4, 0x0F#8), (0xF#4, 0x33#8)] State.reset)
      (fun t => (t.reg 0#4, t.reg 0xF#4)) = some (0xF0#8, 0x33#8) := by decide
theorem test_A12_add_carry :
    run 0x8014#16 (regs [(0#4, 0xFF#8), (1#4, 0xFF#8)] State.reset) (fun t => (t.reg 0#4, t.reg 0xF#4)) =
      some (0xFE#8, 1#8) := by decide
theorem test_A15_add_into_flag :
    run 0x8F14#16 (regs [(0xF#4, 1#8), (1#4, 1#8)] State.reset) (fun t => t.reg 0xF#4) = some 0#8 := by decide
theorem test_A18_sub_borrow :
    run 0x8015#16 (regs [(0#4, 3#8), (1#4, 5#8)] State.reset) (fun t => (t.reg 0#4, t.reg 0xF#4)) =
      some (0xFE#8, 0#8) := by decide
theorem test_A19_sub_equal :
    run 0x8015#16 (regs [(0#4, 7#8), (1#4, 7#8)] State.reset) (fun t => (t.reg 0#4, t.reg 0xF#4)) =
      some (0x00#8, 1#8) := by decide
theorem test_A23_shr_reads_vy :
    run 0x8016#16 (regs [(1#4, 3#8), (0#4, 0xAA#8)] State.reset) (fun t => (t.reg 0#4, t.reg 1#4, t.reg 0xF#4)) =
      some (1#8, 3#8, 1#8) := by decide
theorem test_A26_shr_into_flag :
    run 0x8F16#16 (regs [(1#4, 2#8)] State.reset) (fun t => t.reg 0xF#4) = some 0#8 := by decide
theorem test_A28_subn :
    run 0x8017#16 (regs [(0#4, 3#8), (1#4, 5#8)] State.reset) (fun t => (t.reg 0#4, t.reg 0xF#4)) =
      some (2#8, 1#8) := by decide
theorem test_A29_subn_borrow :
    run 0x8017#16 (regs [(0#4, 5#8), (1#4, 3#8)] State.reset) (fun t => (t.reg 0#4, t.reg 0xF#4)) =
      some (0xFE#8, 0#8) := by decide
theorem test_A32_shl_reads_vy :
    run 0x801E#16 (regs [(1#4, 0x81#8), (0#4, 0xAA#8)] State.reset) (fun t => (t.reg 0#4, t.reg 1#4, t.reg 0xF#4)) =
      some (2#8, 0x81#8, 1#8) := by decide
theorem test_A34_shl_into_flag :
    run 0x8F1E#16 (regs [(1#4, 0xFF#8)] State.reset) (fun t => t.reg 0xF#4) = some 1#8 := by decide
theorem test_A37_nop8 :
    run 0x801F#16 (regs [(0#4, 0x12#8), (1#4, 0x34#8), (0xF#4, 0x56#8)] State.reset)
      (fun t => (t.reg 0#4, t.reg 0xF#4, t.pc)) = some (0x12#8, 0x56#8, 0x202#13) := by decide
theorem test_A38_rnd_draw_as_input :
    look (fun a => (a.v[0], a.pc)) (Arch.step (.core 0xA5#8) (placed 0xC00F#16 State.reset).toArch) =
      some (0x05#8, 0x202#13) := by decide
theorem test_A41_rnd_into_flag :
    look (fun t => (t.reg 0xF#4, t.draws)) (exec (.rnd 0xF#4 0x80#8) State.reset) =
      some (Config.randomByte 0 &&& 0x80#8, 1) := by
  simp [exec, execRnd, look, State.drawnByte, State.reset]

/-! ## Index register and memory (vectors M) -/

theorem test_M1_ldI : run 0xA123#16 State.reset (fun t => t.i) = some 0x123#12 := by decide
theorem test_M2_addI : run 0xF01E#16 (regs [(0#4, 0xFF#8)] (State.reset.setI 0x100#12)) (fun t => t.i) =
    some 0x1FF#12 := by decide
theorem test_M3_addI_wraps :
    run 0xF01E#16 (regs [(0#4, 1#8)] (State.reset.setI 0xFFF#12)) (fun t => (t.i, t.reg 0xF#4)) =
      some (0x000#12, 0#8) := by decide
theorem test_M6_ldF_low_nibble : run 0xF029#16 (regs [(0#4, 0x1A#8)] State.reset) (fun t => t.i) = some 0x032#12 := by
  decide
theorem test_M7_ldF : run 0xF029#16 (regs [(0#4, 0x0F#8)] State.reset) (fun t => t.i) = some 0x04B#12 := by decide
theorem test_M9_bcd :
    run 0xF733#16 (regs [(7#4, 0xEA#8)] (State.reset.setI 0x300#12))
      (fun t => (t.mem.read 0x300, t.mem.read 0x301, t.mem.read 0x302, t.i)) = some (2#8, 3#8, 4#8, 0x300#12) := by
  decide
theorem test_M13_bcd_wraps :
    run 0xF033#16 (regs [(0#4, 0xFF#8)] (State.reset.setI 0xFFE#12))
      (fun t => (t.mem.read 0xFFE, t.mem.read 0xFFF, t.mem.read 0x000)) = some (2#8, 5#8, 5#8) := by decide
theorem test_M14_store :
    run 0xF255#16 (regs [(0#4, 1#8), (1#4, 2#8), (2#4, 3#8)] (State.reset.setI 0x400#12))
      (fun t => (t.mem.read 0x400, t.mem.read 0x401, t.mem.read 0x402, t.mem.read 0x403, t.i)) =
      some (1#8, 2#8, 3#8, 0#8, 0x403#12) := by decide
theorem test_M20_store_then_fetch :
    run 0xF155#16 (regs [(0#4, 0x12#8), (1#4, 0x0C#8)] (State.reset.setI 0x202#12))
      (fun t => (t.fetchWord, t.i)) = some (some 0x120C#16, 0x204#12) := by decide
theorem test_M17_load :
    run 0xF265#16 (bytes 0x500 [9#8, 8#8, 7#8] (State.reset.setI 0x500#12))
      (fun t => (t.reg 0#4, t.reg 1#4, t.reg 2#4, t.reg 3#4, t.i)) = some (9#8, 8#8, 7#8, 0#8, 0x503#12) := by decide
theorem test_M19_load_wraps :
    run 0xF165#16 (bytes 0xFFF [0x11#8] (State.reset.setI 0xFFF#12)) (fun t => (t.reg 0#4, t.reg 1#4, t.i)) =
      some (0x11#8, 0xF0#8, 0x001#12) := by decide

/-! ## Display (vectors D) -/

theorem test_D1_glyph :
    run 0xD015#16 State.reset
      (fun t => (t.disp.get 0 0, t.disp.get 1 0, t.disp.get 3 0, t.disp.get 4 0, t.disp.get 5 0, t.reg 0xF#4)) =
      some (0xF0#8, 0x90#8, 0x90#8, 0xF0#8, 0#8, 0#8) := by decide
theorem test_D9_collision_in_second_byte :
    run 0xD011#16 (bytes 0x300 [0xFF#8]
      ((regs [(0#4, 4#8)] (State.reset.setI 0x300#12)).setDisp (Display.clear.put 0 1 0x80#8)))
      (fun t => (t.disp.get 0 0, t.disp.get 0 1, t.reg 0xF#4)) = some (0x0F#8, 0x70#8, 1#8) := by decide
theorem test_cls :
    run 0x00E0#16 ((regs [(0xF#4, 7#8)] State.reset).setDisp (Display.clear.put 31 7 0xFF#8))
      (fun t => (t.disp, t.reg 0xF#4)) = some (Display.clear, 7#8) := by decide

/-! ## Keys, timers, bursts (vectors K and F) -/

theorem test_K3_skp_low_nibble :
    run 0xE09E#16 ((regs [(0#4, 0x15#8)] State.reset).setKey 5#4 true) (fun t => t.pc) = some 0x204#13 := by decide
theorem test_K2_skp_released : run 0xE09E#16 (regs [(0#4, 5#8)] State.reset) (fun t => t.pc) = some 0x202#13 := by decide
theorem test_K4_sknp : run 0xE0A1#16 (regs [(0#4, 5#8)] State.reset) (fun t => t.pc) = some 0x204#13 := by decide
theorem test_K5_sknp_pressed :
    run 0xE0A1#16 ((regs [(0#4, 5#8)] State.reset).setKey 5#4 true) (fun t => t.pc) = some 0x202#13 := by decide
theorem test_K6_nopE : run 0xE09F#16 State.reset (fun t => t.pc) = some 0x202#13 := by decide
theorem test_K7_wait :
    run 0xF30A#16 State.reset (fun t => (t.pc, t.run, t.pending)) = some (0x202#13, .blocked, some 3#4) := by decide
theorem test_K9_press :
    event (.setKeyState 0xB true) waiting (fun t => (t.reg 3#4, t.pending, t.run, t.pressed 0xB#4)) =
      some (0x0B#8, none, .running, true) := by decide
theorem test_K13_halt : event .halt waiting (fun t => (t.run, t.pending)) = some (.halted, none) := by decide
theorem test_K14_ldVxDt : run 0xF007#16 (State.reset.setDt 0x3C#8) (fun t => t.reg 0#4) = some 0x3C#8 := by decide
theorem test_K15_ldDt : run 0xF015#16 (regs [(0#4, 0x20#8)] State.reset) (fun t => t.dt) = some 0x20#8 := by decide
theorem test_K16_ldSt :
    run 0xF018#16 (regs [(0#4, 2#8)] State.reset) (fun t => (t.st, t.soundActive)) = some (2#8, true) := by decide
theorem test_K17_tick :
    event .tick ((State.reset.setDt 1#8).setSt 2#8) (fun t => (t.timers, t.soundActive)) =
      some ((0#8, 1#8), true) := by decide
theorem test_K20_tick_while_halted : event .tick (stopped.setDt 5#8) (fun t => t.dt) = some 4#8 := by decide
theorem test_K21_nopF : run 0xF019#16 State.reset (fun t => t.pc) = some 0x202#13 := by decide
theorem test_F3_halting_step_counts :
    look (fun r => (r.1.pc, r.1.run, r.2)) (doFrame 10 [0, 0, 0, 0] (placed 0x1FFF#16 State.reset)) =
      some (0xFFF#13, .halted, 2) := by decide
theorem test_F2_window : look id (doFrame 1000 [0, 0, 0] parkedState) = some (parkedState, 3) := by
  decide

/-! ## Reset and construction -/

theorem test_reset_font :
    (State.reset.mem.read 0x000, State.reset.mem.read 0x04F, State.reset.mem.read 0x050) = (0xF0#8, 0x80#8, 0#8) := by
  decide
theorem test_reset_memory_wf : State.reset.mem.wf = true := by decide
theorem test_construct : look id (construct [0x12#8, 0x00#8]) = some parkedState := by decide
theorem test_withFetchWord :
    look (fun t => (t.reg 0xA#4, t.pc)) (step (State.reset.withFetchWord 16 0x6AFF)) = some (0xFF#8, 0x202#13) := by decide

/-! ## Witnesses: what the hypotheses of the statements ask for exists -/

/-- DecodeEncodeRoundTrip: well-formed instructions, a no-op row's among them. -/
theorem witness_DecodeEncodeRoundTrip :
    (Instr.drw 0xF#4 0x0#4 0xF#4).wf = true ∧ (Instr.nop8 0xF#4 0x0#4 0x8#4).wf = true ∧
    (Instr.sys 0xFFF#12).wf = true := by decide

/-- UnrecognizedWordsAreNops: words of each of its families, the last and the first among them. -/
theorem witness_UnrecognizedWordsAreNops :
    Unrecognized 0x0000#16 ∧ Unrecognized 0x0FFF#16 ∧ Unrecognized 0x5001#16 ∧ Unrecognized 0x5FFF#16 ∧
    Unrecognized 0x8008#16 ∧ Unrecognized 0x8FFF#16 ∧ Unrecognized 0x9001#16 ∧ Unrecognized 0xE0A0#16 ∧
    Unrecognized 0xF000#16 ∧ Unrecognized 0xFFFF#16 := by
  refine ⟨?_, ?_, ?_, ?_, ?_, ?_, ?_, ?_, ?_, ?_⟩ <;> (unfold Unrecognized; decide)

/-- StepRunsDecodedInstruction: at the highest PC, with an agenda and without. -/
theorem witness_StepRunsDecodedInstruction :
    let s := placed 0x6001#16 (at' 0xFFE#13)
    CoreMovesNext s ∧ CoreMovesNext (s.setAgenda [.core, .tick]) ∧ s.run = .running ∧ s.pc.toNat ≤ 0xFFE ∧
    decode [s.mem.read s.pc.toNat, s.mem.read (s.pc.toNat + 1)] = .ok (.ldImm 0x0#4 0x01#8, []) := by
  unfold CoreMovesNext; decide

theorem witness_CoreDoesNothingUnlessRunning :
    CoreMovesNext stopped ∧ stopped.run ≠ .running ∧ CoreMovesNext waiting ∧ waiting.run ≠ .running := by
  unfold CoreMovesNext; decide

/-- OutOfBoundsFetchHalts: the lowest PC at which a fetch halts. -/
theorem witness_OutOfBoundsFetchHalts :
    CoreMovesNext (at' 0xFFF#13) ∧ (at' 0xFFF#13).run = .running ∧ 0xFFF < (at' 0xFFF#13).pc.toNat + 1 := by
  unfold CoreMovesNext; decide

/-- HaltingFetchLeavesPc: a step there, and a skip instruction whose skip is taken there (vector C12). -/
theorem witness_HaltingFetchLeavesPc :
    CoreMovesNext (at' 0xFFF#13) ∧ (at' 0xFFF#13).run = .running ∧ 0xFFE < (at' 0xFFF#13).pc.toNat ∧
    step (at' 0xFFF#13) = .next (at' 0xFFF#13).haltOutOfBounds ∧
    exec (.seImm 0x3#4 0x00#8) (at' 0xFFF#13) = .next (at' 0xFFF#13).haltOutOfBounds := by
  refine ⟨.inl rfl, by decide, by decide, rfl, rfl⟩

theorem witness_ReturnPopsOrDoesNothing :
    State.reset.stack = [] ∧ (State.reset.push 0x202#13).stack = [] ++ [0x202#13] := by decide

/-- ImmediateSkips, RegisterSkips: both conditions. -/
theorem witness_skips :
    State.reset.reg 0x3#4 = 0x00#8 ∧ State.reset.reg 0x3#4 ≠ 0x42#8 ∧ State.reset.reg 0x1#4 = State.reset.reg 0x2#4 ∧
    (regs [(0x1#4, 7#8)] State.reset).reg 0x1#4 ≠ (regs [(0x1#4, 7#8)] State.reset).reg 0x2#4 := by decide

/-- KeySkips: a pressed and a released key, named by a value above 0xF. -/
theorem witness_KeySkips :
    let s := (regs [(0x0#4, 0x15#8), (0x1#4, 0xFF#8)] State.reset).setKey 0x5#4 true
    (0x5#4).toNat = (s.reg 0x0#4).toNat % 16 ∧ s.pressed 0x5#4 = true ∧
    (0xF#4).toNat = (s.reg 0x1#4).toNat % 16 ∧ s.pressed 0xF#4 = false := by decide

/-- The two clauses of Skips: PC at the last address a skip can fetch from, and one past it. -/
theorem witness_Skips :
    Skips (at' 0xFFE#13) (at' 0x1000#13) ∧ Skips (at' 0xFFF#13) (at' 0xFFF#13).haltOutOfBounds := by
  refine ⟨⟨fun _ => by decide, fun h => absurd h (by decide), ?_⟩,
    ⟨fun h => absurd h (by decide), fun _ => by decide, ?_⟩⟩ <;>
  · intro p hp
    cases p <;> first | exact absurd (by decide) hp | exact fun _ => rfl | exact fun _ _ => rfl | exact rfl

/-- The flag-writing statements: a destination that is VF and one that is not; sums and differences at their edges. -/
theorem witness_flags :
    (0xE#4 : Reg) ≠ 0xF#4 ∧ (0x0#4 : Reg) ≠ 0xE#4 ∧ (0x0#4 : Reg) ≠ 0xF#4 ∧
    256 ≤ (0xFF#8 : Byte).toNat + (0x01#8 : Byte).toNat ∧ ¬ 256 ≤ (0xFF#8 : Byte).toNat + (0x00#8 : Byte).toNat := by
  decide

/-- BcdStoresThreeDigits: an address outside the three. -/
theorem witness_BcdStoresThreeDigits :
    let s := State.reset.setI 0xFFE#12
    (0x001#12 : Addr) ≠ s.i ∧ (0x001#12 : Addr) ≠ s.i + 1#12 ∧ (0x001#12 : Addr) ≠ s.i + 2#12 := by decide

/-- BlockStoreCopiesRegisters, BlockLoadFillsRegisters: registers in and above the block, an address outside it. -/
theorem witness_block :
    (0xF#4 : Reg).toNat ≤ (0xF#4 : Reg).toNat ∧ (0x0#4 : Reg).toNat < (0x1#4 : Reg).toNat ∧
    (∀ k ≤ (0xF#4 : Reg).toNat, (0x008#12 : Addr) ≠ 0xFF8#12 + BitVec.ofNat 12 k) := by decide

/-- StoredBytesAreFetched: both bytes of the next word stored (vector M20), its second alone, its first alone by FX33, and
the two last bytes of the longest store over the last word of Memory. -/
theorem witness_StoredBytesAreFetched :
    (let s := (at' 0x202#13).setI 0x202#12
     s.pc.toNat ≤ 0xFFE ∧ 0 < (0x1#4 : Reg).toNat + 1 ∧ s.i + BitVec.ofNat 12 0 = BitVec.ofNat 12 s.pc.toNat ∧
     1 < (0x1#4 : Reg).toNat + 1 ∧ s.i + BitVec.ofNat 12 1 = BitVec.ofNat 12 (s.pc.toNat + 1)) ∧
    (let s := (at' 0x202#13).setI 0x203#12
     (∀ k < (0x0#4 : Reg).toNat + 1, s.i + BitVec.ofNat 12 k ≠ BitVec.ofNat 12 s.pc.toNat) ∧
     s.i + BitVec.ofNat 12 0 = BitVec.ofNat 12 (s.pc.toNat + 1)) ∧
    (let s := (at' 0x202#13).setI 0x200#12
     s.i + BitVec.ofNat 12 2 = BitVec.ofNat 12 s.pc.toNat ∧
     (∀ k < 3, s.i + BitVec.ofNat 12 k ≠ BitVec.ofNat 12 (s.pc.toNat + 1))) ∧
    (let s := (at' 0xFFE#13).setI 0xFF0#12
     s.pc.toNat ≤ 0xFFE ∧ 15 < (0xF#4 : Reg).toNat + 1 ∧
     s.i + BitVec.ofNat 12 15 = BitVec.ofNat 12 (s.pc.toNat + 1)) := by
  decide

/-- DrawXorsEveryPixel: on vector D9's buffer one pixel collides; on a clear one none does. -/
theorem witness_DrawXorsEveryPixel :
    (let s := (regs [(0x0#4, 4#8)] State.reset).setDisp (Display.clear.put 0 0 0x08#8)
     ∃ px py, s.disp.pixel px py = true ∧ s.spriteLit 0x0#4 0x1#4 0x1#4 px py = true) ∧
    (∀ px py, ¬(State.reset.disp.pixel px py = true ∧ State.reset.spriteLit 0x0#4 0x1#4 0xF#4 px py = true)) := by
  refine ⟨⟨4, 0, by decide⟩, fun px py h => ?_⟩
  have : State.reset.disp.pixel px py = false := by simp [Display.pixel, State.reset]
  rw [this] at h
  exact absurd h.1 (by decide)

/-- DrawTwiceRestores: a clear buffer, a sprite with a lit line (glyph 0) and one without (no lines). -/
theorem witness_DrawTwiceRestores :
    (0x0#4 : Reg) ≠ 0xF#4 ∧ (0x1#4 : Reg) ≠ 0xF#4 ∧ (∀ r c, State.reset.disp.get r c = 0#8) ∧
    (∃ k < (0x5#4 : Nibble).toNat, State.reset.readByte (State.reset.i + BitVec.ofNat 12 k) ≠ 0#8) ∧
    (let s := State.reset.setI 0x300#12
     ∀ k < (0xF#4 : Nibble).toNat, s.readByte (s.i + BitVec.ofNat 12 k) = 0#8) :=
  ⟨by decide, by decide, fun r c => Display.get_clear r c, ⟨0, by decide⟩, by decide⟩

theorem witness_KeyPressEndsWait :
    waiting.run = .blocked ∧ waiting.pending = some 0x3#4 ∧ (0x4#4 : Reg) ≠ 0x3#4 ∧ (0x0#4 : Nibble) ≠ 0xF#4 := by
  decide

/-- KeyEventWithoutWaitOnlyLatches: each of the three ways. -/
theorem witness_KeyEventWithoutWaitOnlyLatches :
    ((false = false ∨ waiting.run ≠ .blocked ∨ waiting.pending = none)) ∧
    ((true = false ∨ stopped.run ≠ .blocked ∨ stopped.pending = none)) ∧
    State.reset.pending = none ∧ (0x0#4 : Nibble) ≠ 0xF#4 := by decide

theorem witness_KeyCodeAboveFifteenRefused : 15 < 16 ∧ ¬ 15 < 15 := by decide

theorem witness_HostHaltStops :
    State.reset.run = .running ∧ waiting.run = .blocked ∧ stopped.run = .halted := by decide

/-- TickCountsDown: a counter at 1, at 255 and at 0. -/
theorem witness_TickCountsDown :
    ((State.reset.setDt 1#8).setSt 255#8).dt ≠ 0#8 ∧ ((State.reset.setDt 1#8).setSt 255#8).st ≠ 0#8 ∧
    State.reset.dt = 0#8 ∧ State.reset.st = 0#8 := by decide

/-- FairTicksDrainFinalCounters: a Halted engine under ticks of their own, and a parked one all of whose ticks fall inside
bursts, both with a counter at 255. -/
theorem witness_FairTicksDrainFinalCounters :
    (FairRun (fun _ => .tick) (stopped.setDt 255#8) ∧ Final (stopped.setDt 255#8)) ∧
    (FairRun (fun _ => .doFrame 1 [1]) (parkedState.setDt 255#8) ∧ Final (parkedState.setDt 255#8)) := by
  refine ⟨⟨fairRun_of_ticks _ _ (fun _ => True) trivial fun _ _ _ => ⟨_, rfl, trivial, Nat.le_refl 1⟩, .inl rfl⟩,
    ⟨fairRun_of_ticks _ _ (fun t => t.run = .running ∧ t.pc = 0x200#13 ∧ t.mem = parkedState.mem) (by decide) ?_,
      .inr (by unfold Parked; decide)⟩⟩
  rintro _ t ⟨hr, hp, hm⟩
  have hs : coreStep t.tick = .next t.tick := by
    have hw : t.tick.fetchWord = some 0x1200#16 := by
      rw [State.fetchWord_eq _ (by simp [hp])]; simp only [State.tick_mem, State.tick_pc, hm, hp]; decide
    rcases coreStep_cases t.tick with ⟨h, _⟩ | ⟨_, h, _⟩ | ⟨_, _, w, h, e⟩
    · exact absurd hr h
    · simp [hp] at h
    · rw [hw] at h; cases h
      rw [e, show decodeWord 0x1200#16 = .jp 0x200#12 by decide]
      have : t.tick = t.tick.setPc 0x200#13 := by rw [← hp]; rfl
      rw [this]; rfl
  have hd : doFrame 1 [1] t = .next (t.tick, 1) := by
    rw [doFrame, frameLoop_cons, if_neg (by simp [hr]), if_neg (by simp), show t.ticks 1 = t.tick from rfl, hs]
    exact frameLoop_nil _ _ _
  exact ⟨t.tick, by rw [applyEvent, hd]; rfl, ⟨hr, hp, hm⟩, by simp [ticksIn, hd]⟩

/-- HaltedIsTerminal: a Halted engine takes a step of the core's and one of the Timer Unit's. -/
theorem witness_HaltedIsTerminal :
    stopped.run = .halted ∧ (∃ t, step stopped = .next t) ∧ (∃ t, step (stopped.setAgenda [.tick]) = .next t) :=
  ⟨by decide, ⟨_, rfl⟩, ⟨_, rfl⟩⟩

/-- BlockedLeftOnlyByPressOrHalt: both ways out. -/
theorem witness_BlockedLeftOnlyByPressOrHalt :
    waiting.run = .blocked ∧
    (∃ t, step (waiting.setAgenda [.setKeyState 15 true]) = .next t ∧ t.run ≠ .blocked) ∧
    (∃ t, step (waiting.setAgenda [.halt]) = .next t ∧ t.run ≠ .blocked) :=
  ⟨by decide, ⟨_, rfl, by decide⟩, ⟨_, rfl, by decide⟩⟩

theorem witness_FrameCountWithinBudget : (1 : Nat) ≠ 0 ∧ stopped.run ≠ .running := by decide

/-- ParkedStepChangesNothing, FrameOnParkedRunsItsBudget: parked at 0x200, at 0 and at the last word of Memory. -/
theorem witness_Parked :
    Parked parkedState ∧ Parked (placed 0x1000#16 (at' 0x000#13)) ∧ Parked (placed 0x1FFE#16 (at' 0xFFE#13)) := by
  unfold Parked; decide

/-- ResetHoldsTheStatedValues: the last font byte and the first byte past the font. -/
theorem witness_ResetHoldsTheStatedValues :
    (0x04F#12 : Addr).toNat < 80 ∧ 80 ≤ (0x050#12 : Addr).toNat ∧ 80 ≤ (0xFFF#12 : Addr).toNat := by decide

/-- ConstructCopiesImage, ConstructRefusesLongImages: the longest image taken and the shortest refused. -/
theorem witness_images :
    (List.replicate 0xE00 0xAA#8).length ≤ 0xE00 ∧ 0xE00 < (List.replicate 0xE01 0xAA#8).length :=
  ⟨Nat.le_of_eq List.length_replicate, Nat.lt_of_lt_of_eq (by omega) List.length_replicate.symm⟩

/-- StepKeepsLegal: a legal state with a saved location, in a wait, that takes a step. -/
theorem witness_StepKeepsLegal :
    Legal (waiting.push 0x1000#13) ∧ ∃ t, step ((waiting.push 0x1000#13).setAgenda [.setKeyState 3 true]) = .next t :=
  ⟨⟨by decide, by decide, by decide, by decide, by decide⟩, _, rfl⟩

/-- InstructionsWriteOnlyTheirParts, RegistersChangeOnlyAsDestinations, SoundCounterIsNeverRead: an instruction that runs,
and a register it may not write. -/
theorem witness_exec :
    (∃ t, exec (.addReg 0x1#4 0x2#4) State.reset = .next t) ∧ ¬ mayWriteReg (.addReg 0x1#4 0x2#4) 0x2#4 ∧
    ¬ mayWriteReg (.load 0x1#4) 0x2#4 := by
  refine ⟨⟨_, rfl⟩, ?_⟩
  unfold mayWriteReg; decide

end Sys2Proof.Tests
end

section
/-!
PROOFS. Legal states: one rule per named operation, then every instruction, every event, every step.
-/

namespace Sys2Proof.Machine

/-! ### What each operation asks of a legal state to leave it legal -/

section
variable {s : State} (h : Legal s)
include h

theorem Legal.setReg (r : Reg) (b : Byte) : Legal (s.setReg r b) := { h with }
theorem Legal.setKey (k : Nibble) (p : Bool) : Legal (s.setKey k p) := { h with }
theorem Legal.setI (a : Addr) : Legal (s.setI a) := { h with }
theorem Legal.setDisp (d : Display) : Legal (s.setDisp d) := { h with }
theorem Legal.setAgenda (l : List Event) : Legal (s.setAgenda l) := { h with }
theorem Legal.afterDraw : Legal s.afterDraw := { h with }
theorem Legal.clearKeys : Legal s.clearKeys := { h with }

theorem Legal.writeByte (a : Addr) (b : Byte) : Legal (s.writeByte a b) :=
  { h with memoryCanonical := State.writeByte_wf a b h.memoryCanonical }

theorem Legal.setPc {a : PcVal} (ha : a.toNat ≤ 0x10FE) : Legal (s.setPc a) := { h with pcInRange := ha }

theorem Legal.push {a : PcVal} (ha : a.toNat ≤ 0x1000) : Legal (s.push a) :=
  { h with
    returnsInRange := by
      intro c hc
      rcases List.mem_append.1 hc with hc | hc
      · exact h.returnsInRange c hc
      · rwa [List.mem_singleton.1 hc] }

theorem Legal.pop : Legal s.pop :=
  { h with returnsInRange := fun a ha => h.returnsInRange a (List.mem_of_mem_dropLast ha) }

theorem Legal.advancePc (hp : s.pc.toNat ≤ 0xFFE) : Legal s.advancePc :=
  { h with pcInRange := by simp only [State.advancePc_pc]; bv_omega }

/-- Outside Loading any value may go to a counter. -/
theorem Legal.setDt (hr : s.run ≠ .loading) (b : Byte) : Legal (s.setDt b) :=
  { h with loadingCounters := fun hl => absurd hl hr }

theorem Legal.setSt (hr : s.run ≠ .loading) (b : Byte) : Legal (s.setSt b) :=
  { h with loadingCounters := fun hl => absurd hl hr }

/-- A tick keeps a counter at 0 where it is 0 (60_exceptions.md R131). -/
theorem Legal.tick : Legal s.tick :=
  { h with
    loadingCounters := fun hl => by
      obtain ⟨hd, hs⟩ := h.loadingCounters hl
      simp [hd, hs, countDown] }

/-- A Running engine has no wait pending (10_state.md R29). -/
theorem Legal.pending_of_running (hr : s.run = .running) : s.pending = none := by
  by_contra hp
  have hb : s.run = .blocked := h.pendingIffBlocked.1 hp
  rw [hr] at hb
  cases hb

theorem Legal.haltOutOfBounds (hr : s.run = .running) : Legal s.haltOutOfBounds :=
  { h with
    pendingIffBlocked := by simp [h.pending_of_running hr]
    loadingCounters := by simp }

theorem Legal.beginWait (x : Reg) : Legal (s.beginWait x) :=
  { h with
    pendingIffBlocked := by simp
    loadingCounters := by simp }

theorem Legal.endWait : Legal s.endWait :=
  { h with
    pendingIffBlocked := by simp
    loadingCounters := by simp }

theorem Legal.stop : Legal s.stop :=
  { h with
    pendingIffBlocked := by simp
    loadingCounters := by simp }

theorem Legal.setResultAndFlag (x : Reg) (r : Byte × Byte) : Legal (s.setResultAndFlag x r) :=
  (h.setReg x r.1).setReg Config.flagReg r.2

/-- A skip advances PC inside Memory only, and halts a Running engine where it cannot. -/
theorem Legal.skipIf (hr : s.run = .running) (c : Bool) : Legal (s.skipIf c) := by
  rcases s.skipIf_cases c with ⟨_, e⟩ | ⟨_, hp, e⟩ | ⟨_, _, e⟩ <;> rw [e]
  · exact h
  · exact h.advancePc hp
  · exact h.haltOutOfBounds hr

/-- A return takes PC from the saved locations, all of them in PC's range. -/
theorem Legal.popToPc : Legal s.popToPc := by
  rcases s.popToPc_cases with ⟨_, e⟩ | ⟨l, a, hs, e⟩ <;> rw [e]
  · exact h
  · have ha : a.toNat ≤ 0x1000 := h.returnsInRange a (by simp [hs])
    exact h.pop.setPc (by omega)

theorem Legal.storeBlock (n : Nat) : Legal (s.storeBlock n) := by
  rw [s.storeBlock_eq n]
  exact { h with memoryCanonical := State.storeBlock_wf n h.memoryCanonical }

theorem Legal.loadBlock (n : Nat) : Legal (s.loadBlock n) := by
  rw [s.loadBlock_eq n]
  exact { h with }

theorem Legal.resolveWait (k : Nibble) : Legal (s.resolveWait k) := by
  rcases s.resolveWait_cases k with ⟨x, _, _, e⟩ | ⟨_, e⟩ <;> rw [e]
  · exact (h.setReg x _).endWait
  · exact h

end

theorem jumpTarget_toNat (nnn : Addr) : (jumpTarget nnn).toNat = nnn.toNat := by
  simp only [jumpTarget]; bv_omega

/-- NNN + V0 is at most 0xFFF + 0xFF, the top of PC's range (40_control.md R77), and so is never cut. -/
theorem jumpTarget_add_toNat (nnn : Addr) (b : Byte) :
    (jumpTarget nnn + b.setWidth 13).toNat = nnn.toNat + b.toNat := by
  simp only [jumpTarget]; bv_omega

/-! ### Instructions, events, steps -/

/-- An instruction of a Running engine, met with PC where a fetch leaves it, keeps the state legal. -/
theorem exec_keeps_legal {i : Instr} {s t : State} (h : Legal s) (hr : s.run = .running) (hp : s.pc.toNat ≤ 0x1000)
    (he : exec i s = .next t) : Legal t := by
  have hl : s.run ≠ .loading := by simp [hr]
  have hjump : ∀ nnn : Addr, (jumpTarget nnn).toNat ≤ 0x10FE := fun nnn => by
    rw [jumpTarget_toNat]; omega
  cases i <;> cases he
  case sys | nop5 | nop8 | nop9 | nopE | nopF => exact h
  case ret => exact h.popToPc
  case jp nnn => exact h.setPc (hjump nnn)
  case call nnn => exact (h.push hp).setPc (hjump nnn)
  case jpV0 nnn => exact h.setPc (by rw [jumpTarget_add_toNat]; omega)
  case seImm | sneImm | seReg | sneReg | skp | sknp => exact h.skipIf hr _
  case ldImm | addImm | ldReg | orReg | andReg | xorReg | ldVxDt => exact h.setReg _ _
  case addReg | sub | shr | subn | shl => exact h.setResultAndFlag _ _
  case rnd => exact h.afterDraw.setReg _ _
  case cls => exact h.setDisp _
  case drw => exact (h.setDisp _).setReg _ _
  case ldI | addI | ldF => exact h.setI _
  case bcd => exact ((h.writeByte _ _).writeByte _ _).writeByte _ _
  case store => exact (h.storeBlock _).setI _
  case load => exact (h.loadBlock _).setI _
  case ldVxK => exact h.beginWait _
  case ldDt => exact h.setDt hl _
  case ldSt => exact h.setSt hl _

/-- The core's step keeps the state legal: the bound of the fetch is what keeps PC in range. -/
theorem coreStep_keeps_legal {s t : State} (h : Legal s) (he : coreStep s = .next t) : Legal t := by
  rcases coreStep_cases s with ⟨_, e⟩ | ⟨hr, _, e⟩ | ⟨hr, hp, w, _, e⟩ <;> rw [e] at he
  · cases he; exact h
  · cases he; exact h.haltOutOfBounds hr
  · exact exec_keeps_legal (h.advancePc hp) hr (by simp only [State.advancePc_pc]; bv_omega) he

theorem setKeyState_keeps_legal {code : Nat} {p : Bool} {s t : State} (h : Legal s)
    (he : setKeyState code p s = .next t) : Legal t := by
  by_cases hc : code < 16
  · rw [setKeyState_inRange s p hc] at he
    cases he
    cases p
    · exact h.setKey _ _
    · exact (h.resolveWait _).setKey _ _
  · simp [setKeyState, Nat.not_lt.1 hc] at he

theorem hostHalt_keeps_legal {s t : State} (h : Legal s) (he : hostHalt s = .next t) : Legal t := by
  rcases hostHalt_cases s with ⟨_, e⟩ | ⟨_, e⟩ | ⟨_, e⟩ <;> rw [e] at he <;> cases he
  · exact h.stop
  · exact h

/-- The state after a burst is the one its loop answers. -/
theorem dropCount_eq_next {o : Host.Outcome (State × Nat) Fault Refusal} {t : State} (h : dropCount o = .next t) :
    ∃ n, o = .next (t, n) := by
  cases o <;> cases h
  exact ⟨_, rfl⟩

theorem applyEvent_keeps_legal (e : Event) (s t : State) (h : Legal s) (he : applyEvent e s = .next t) : Legal t := by
  cases e with
  | core => exact coreStep_keeps_legal h he
  | doFrame budget window =>
    obtain ⟨n, hn⟩ := dropCount_eq_next he
    exact frameLoop_keeps Legal (fun _ => Legal.tick) (fun _ _ => coreStep_keeps_legal) budget window 0 s t n h hn
  | tick => cases he; exact h.tick
  | setKeyState code p => exact setKeyState_keeps_legal h he
  | clearKeyState => cases he; exact h.clearKeys
  | halt => exact hostHalt_keeps_legal h he

/-- Settles O55: every event keeps a legal state legal, and so does taking it off the agenda. -/
theorem stepKeepsLegal : Obligations.StepKeepsLegal := fun _ _ h he =>
  step_keeps Legal (fun _ l h => h.setAgenda l) applyEvent_keeps_legal h he

end Sys2Proof.Machine
end

section
/-!
PROOFS. Frames: what each named operation leaves alone, and with it what an instruction may write (10_state.md R33),
which registers (R18), and that no instruction reads ST (R25).
-/

namespace Sys2Proof.Machine

/-! ### Frames compose -/

theorem KeepsAllBut.refl (parts : List Part) (s : State) : KeepsAllBut parts s s := by
  intro p _
  cases p <;> simp [Part.same]

theorem KeepsAllBut.trans {parts : List Part} {s t u : State} (h : KeepsAllBut parts s t) (k : KeepsAllBut parts t u) :
    KeepsAllBut parts s u := by
  intro p hp
  have hst := h p hp
  have htu := k p hp
  cases p <;> simp_all [Part.same]

theorem KeepsAllBut.mono {parts more : List Part} {s t : State} (h : KeepsAllBut parts s t) (hsub : parts ⊆ more) :
    KeepsAllBut more s t := fun p hp => h p fun hm => hp (hsub hm)

theorem KeepsAllBut.append {parts more : List Part} {s t u : State} (h : KeepsAllBut parts s t)
    (k : KeepsAllBut more t u) : KeepsAllBut (parts ++ more) s u :=
  (h.mono (List.subset_append_left _ _)).trans (k.mono (List.subset_append_right _ _))

/-! ### What each operation leaves alone -/

section
variable (s : State)

theorem keepsAllBut_setReg (r : Reg) (b : Byte) : KeepsAllBut [.v] s (s.setReg r b) := by
  intro p hp; cases p <;> simp_all [Part.same]

theorem keepsAllBut_writeByte (a : Addr) (b : Byte) : KeepsAllBut [.mem] s (s.writeByte a b) := by
  intro p hp; cases p <;> simp_all [Part.same]

theorem keepsAllBut_setI (a : Addr) : KeepsAllBut [.i] s (s.setI a) := by
  intro p hp; cases p <;> simp_all [Part.same]

theorem keepsAllBut_setPc (a : PcVal) : KeepsAllBut [.pc] s (s.setPc a) := by
  intro p hp; cases p <;> simp_all [Part.same]

theorem keepsAllBut_setDt (b : Byte) : KeepsAllBut [.dt] s (s.setDt b) := by
  intro p hp; cases p <;> simp_all [Part.same]

theorem keepsAllBut_setSt (b : Byte) : KeepsAllBut [.st] s (s.setSt b) := by
  intro p hp; cases p <;> simp_all [Part.same]

theorem keepsAllBut_setDisp (d : Display) : KeepsAllBut [.disp] s (s.setDisp d) := by
  intro p hp; cases p <;> simp_all [Part.same]

theorem keepsAllBut_beginWait (x : Reg) : KeepsAllBut [.run, .pending] s (s.beginWait x) := by
  intro p hp; cases p <;> simp_all [Part.same]

theorem keepsAllBut_push (a : PcVal) : KeepsAllBut [.stack] s (s.push a) := by
  intro p hp; cases p <;> simp_all [Part.same]

theorem keepsAllBut_pop : KeepsAllBut [.stack] s s.pop := by
  intro p hp; cases p <;> simp_all [Part.same]

theorem keepsAllBut_advancePc : KeepsAllBut [.pc] s s.advancePc := by
  intro p hp; cases p <;> simp_all [Part.same]

theorem keepsAllBut_haltOutOfBounds : KeepsAllBut [.run] s s.haltOutOfBounds := by
  intro p hp; cases p <;> simp_all [Part.same]

theorem keepsAllBut_afterDraw : KeepsAllBut [.draws] s s.afterDraw := by
  intro p hp; cases p <;> simp_all [Part.same]

/-- The flag write touches the registers alone, as the result's does. -/
theorem keepsAllBut_setResultAndFlag (x : Reg) (r : Byte × Byte) : KeepsAllBut [.v] s (s.setResultAndFlag x r) :=
  (keepsAllBut_setReg s x r.1).trans (keepsAllBut_setReg _ Config.flagReg r.2)

/-- A skip moves PC or halts. -/
theorem keepsAllBut_skipIf (c : Bool) : KeepsAllBut [.pc, .run] s (s.skipIf c) := by
  rcases s.skipIf_cases c with ⟨_, e⟩ | ⟨_, _, e⟩ | ⟨_, _, e⟩ <;> rw [e]
  · exact .refl _ s
  · exact (keepsAllBut_advancePc s).mono (by simp)
  · exact (keepsAllBut_haltOutOfBounds s).mono (by simp)

theorem keepsAllBut_popToPc : KeepsAllBut [.pc, .stack] s s.popToPc := by
  rcases s.popToPc_cases with ⟨_, e⟩ | ⟨l, a, _, e⟩ <;> rw [e]
  · exact .refl _ s
  · exact ((keepsAllBut_pop s).append (keepsAllBut_setPc _ a)).mono (by simp)

theorem keepsAllBut_storeBlock (n : Nat) : KeepsAllBut [.mem] s (s.storeBlock n) := by
  induction n with
  | zero => exact .refl _ s
  | succ n ih => exact ih.trans (keepsAllBut_writeByte _ _ _)

theorem keepsAllBut_loadBlock (n : Nat) : KeepsAllBut [.v] s (s.loadBlock n) := by
  induction n with
  | zero => exact .refl _ s
  | succ n ih => exact ih.trans (keepsAllBut_setReg _ _ _)

end

/-! ### What an instruction may write -/

/-- Settles O57: the frame of each row is that of the operations its meaning is made of. -/
theorem instructionsWriteOnlyTheirParts : Obligations.InstructionsWriteOnlyTheirParts := by
  intro i s t h
  cases i <;> cases h
  case sys | nop5 | nop8 | nop9 | nopE | nopF => exact .refl _ s
  case ret => exact keepsAllBut_popToPc s
  case jp | jpV0 => exact keepsAllBut_setPc s _
  case call => exact ((keepsAllBut_push s _).append (keepsAllBut_setPc _ _)).mono (by simp [mayWrite])
  case seImm | sneImm | seReg | sneReg | skp | sknp => exact keepsAllBut_skipIf s _
  case ldImm | addImm | ldReg | orReg | andReg | xorReg | ldVxDt => exact keepsAllBut_setReg s _ _
  case addReg | sub | shr | subn | shl => exact keepsAllBut_setResultAndFlag s _ _
  case rnd => exact ((keepsAllBut_afterDraw s).append (keepsAllBut_setReg _ _ _)).mono (by simp [mayWrite])
  case cls => exact keepsAllBut_setDisp s _
  case drw => exact (keepsAllBut_setDisp s _).append (keepsAllBut_setReg _ _ _)
  case ldI | addI | ldF => exact keepsAllBut_setI s _
  case bcd =>
    exact ((keepsAllBut_writeByte s _ _).trans (keepsAllBut_writeByte _ _ _)).trans (keepsAllBut_writeByte _ _ _)
  case store => exact (keepsAllBut_storeBlock s _).append (keepsAllBut_setI _ _)
  case load => exact (keepsAllBut_loadBlock s _).append (keepsAllBut_setI _ _)
  case ldVxK => exact keepsAllBut_beginWait s _
  case ldDt => exact keepsAllBut_setDt s _
  case ldSt => exact keepsAllBut_setSt s _

/-- An instruction that may write no register leaves every register as it is. -/
theorem exec_reg_of_not_mayWrite {i : Instr} {s t : State} (h : exec i s = .next t) (hv : .v ∉ mayWrite i) (r : Reg) :
    t.reg r = s.reg r :=
  instructionsWriteOnlyTheirParts i s t h .v hv r

theorem State.reg_setResultAndFlag_ne (s : State) {x q : Reg} (r : Byte × Byte) (hx : q ≠ x)
    (hf : q ≠ Config.flagReg) : (s.setResultAndFlag x r).reg q = s.reg q := by
  rw [State.reg_setResultAndFlag, if_neg hf, if_neg hx]

/-- Settles O58: the rows that may write registers write their destination, and VF where they have a flag. -/
theorem registersChangeOnlyAsDestinations : Obligations.RegistersChangeOnlyAsDestinations := by
  intro i s t r h hr
  have unwritten : .v ∉ mayWrite i → t.reg r = s.reg r := fun hv => exec_reg_of_not_mayWrite h hv r
  cases i <;> cases h
  case ldImm | addImm | ldReg | orReg | andReg | xorReg | ldVxDt => exact s.reg_setReg_ne _ hr
  case rnd => exact s.afterDraw.reg_setReg_ne _ hr
  case drw => exact State.reg_setReg_ne _ _ hr
  case addReg | sub | shr | subn | shl =>
    obtain ⟨hx, hf⟩ := not_or.1 hr
    exact s.reg_setResultAndFlag_ne _ hx hf
  case load x =>
    have hx : ¬ r.toNat < x.toNat + 1 := fun hlt => hr (Nat.le_of_lt_succ hlt)
    rw [State.setI_reg, State.reg_loadBlock _ _ x.isLt, if_neg hx]
  all_goals exact unwritten (by simp [mayWrite])

/-! ### No instruction reads ST -/

section
variable (s : State) (b : Byte)

theorem State.skipIf_setSt (c : Bool) : (s.setSt b).skipIf c = (s.skipIf c).setSt b := by
  cases c
  · rfl
  · cases hf : s.canFetch <;> simp [State.skipIf, State.skipNext, hf] <;> rfl

theorem State.popToPc_setSt : (s.setSt b).popToPc = s.popToPc.setSt b := by
  rcases s.popToPc_cases with ⟨h, e⟩ | ⟨l, a, h, e⟩ <;> rw [e]
  · exact State.popToPc_nil h
  · exact State.popToPc_concat h

theorem State.storeBlock_setSt (n : Nat) : (s.setSt b).storeBlock n = (s.storeBlock n).setSt b := by
  induction n with
  | zero => rfl
  | succ n ih => rw [State.storeBlock, ih]; rfl

theorem State.loadBlock_setSt (n : Nat) : (s.setSt b).loadBlock n = (s.loadBlock n).setSt b := by
  induction n with
  | zero => rfl
  | succ n ih => rw [State.loadBlock, ih]; rfl

end

/-- Every instruction but FX18 does on another ST what it does on this one, and leaves ST alone. -/
theorem exec_setSt {i : Instr} {s t : State} (b : Byte) (hi : .st ∉ mayWrite i) (h : exec i s = .next t) :
    exec i (s.setSt b) = .next (t.setSt b) := by
  cases i <;> cases h
  case ret => exact congrArg _ (s.popToPc_setSt b)
  case seImm | sneImm | seReg | sneReg | skp | sknp => exact congrArg _ (s.skipIf_setSt b _)
  case store x =>
    exact congrArg (fun u : State => Host.Outcome.next (u.setI (s.dataAddr (x.toNat + 1)))) (s.storeBlock_setSt b _)
  case load x =>
    exact congrArg (fun u : State => Host.Outcome.next (u.setI (s.dataAddr (x.toNat + 1)))) (s.loadBlock_setSt b _)
  case ldSt => simp [mayWrite] at hi
  all_goals rfl

/-- Settles O59: FX18 writes one value whatever ST held, every other instruction keeps each ST. -/
theorem soundCounterIsNeverRead : Obligations.SoundCounterIsNeverRead := by
  intro i s t b h
  by_cases hi : .st ∈ mayWrite i
  · obtain ⟨x, rfl⟩ : ∃ x, i = .ldSt x := by
      cases i <;> simp [mayWrite] at hi
      exact ⟨_, rfl⟩
    cases h
    exact ⟨_, rfl, .refl _ _, .inr rfl⟩
  · have hst : t.st = s.st := instructionsWriteOnlyTheirParts i s t h .st hi
    exact ⟨t.setSt b, exec_setSt b hi h, keepsAllBut_setSt t b, .inl ⟨hst, rfl⟩⟩

end Sys2Proof.Machine
end

section
/-!
PROOFS. Every step is a step of the relation that takes the inputs of R36 as arguments.
-/

namespace Sys2Proof.Machine

/-- A step is one event: the next one, on the state with it taken off the agenda. -/
theorem step_eq_applyEvent (s : State) : step s = applyEvent s.nextEvent s.popAgenda := by
  cases ha : s.agenda with
  | nil =>
    have hp : s.popAgenda = s := by rw [State.popAgenda, ha, List.tail_nil, ← ha, State.setAgenda_self]
    rw [step_nil ha, hp, State.nextEvent, ha]; rfl
  | cons e rest => rw [step_cons ha, State.nextEvent, State.popAgenda, ha]; rfl

/-- The core's step is the relation's, given the byte that the draw count stands for, on any state of the same tuple. -/
theorem coreStepOn_archOf_of_toArch_eq {s s' : State} (h : s'.toArch = s.toArch) :
    archOf (coreStepOn s.drawnByte s') = archOf (coreStep s) := by
  rw [coreStep_archOf, coreStepOn_archOf _ s, coreStepOn_archOf _ s', h]

theorem State.tick_toArch (s : State) :
    s.tick.toArch = { s.toArch with dt := countDown s.toArch.dt, st := countDown s.toArch.st } := rfl

theorem State.ticks_toArch_congr {s s' : State} (h : s'.toArch = s.toArch) (n : Nat) :
    (s'.ticks n).toArch = (s.ticks n).toArch := by
  induction n with
  | zero => exact h
  | succ n ih => rw [State.ticks, State.ticks, State.tick_toArch, State.tick_toArch, ih]

/-- No meaning stops the machine (40_control.md R71, 60_exceptions.md R120). -/
theorem exec_completes (i : Instr) (s : State) : ∃ t, exec i s = .next t := by
  cases i <;> exact ⟨_, rfl⟩

theorem coreStep_completes (s : State) : ∃ t, coreStep s = .next t := by
  rcases coreStep_cases s with ⟨_, e⟩ | ⟨_, _, e⟩ | ⟨_, _, w, _, e⟩ <;> rw [e]
  · exact ⟨_, rfl⟩
  · exact ⟨_, rfl⟩
  · exact exec_completes _ _

theorem archOf_eq_next {o : Host.Outcome State Fault Refusal} {a : Arch} (h : archOf o = .next a) :
    ∃ t, o = .next t ∧ t.toArch = a := by
  cases o <;> cases h
  exact ⟨_, rfl, rfl⟩

/-- A burst is a burst of the relation: with each entry of the window goes the byte that a draw in its step gives. -/
theorem exists_frameLoopBy_archOf (budget : Nat) (window : List Nat) :
    ∀ (count : Nat) (s s' : State), s'.toArch = s.toArch →
      ∃ w : List (Nat × Byte), w.map Prod.fst = window ∧
        archOf (dropCount (frameLoopBy tickedStepOn budget w count s')) =
          archOf (dropCount (frameLoop budget window count s)) := by
  induction window with
  | nil => exact fun count s s' h => ⟨[], rfl, by simp [dropCount, h]⟩
  | cons k later ih =>
    intro count s s' h
    have hrun : s'.run = s.run := congrArg Arch.run h
    obtain ⟨t, ht⟩ := coreStep_completes (s.ticks k)
    have hstep : archOf (tickedStepOn (k, (s.ticks k).drawnByte) s') = .next t.toArch := by
      rw [tickedStepOn, coreStepOn_archOf_of_toArch_eq (State.ticks_toArch_congr h k), ht, archOf_next]
    obtain ⟨t', ht', hat⟩ := archOf_eq_next hstep
    obtain ⟨w, hw, hloop⟩ := ih (count + 1) t t' hat
    refine ⟨(k, (s.ticks k).drawnByte) :: w, by rw [List.map_cons, hw], ?_⟩
    rw [frameLoopBy_cons, frameLoop_cons, hrun, ht, ht']
    split
    · exact congrArg Host.Outcome.next h
    split
    · exact congrArg Host.Outcome.next h
    · exact hloop

/-- A press ends the same wait whatever the carriers hold. -/
theorem State.resolveWait_toArch (s : State) (k : Nibble) :
    (s.toArch.bare.resolveWait k).toArch = (s.resolveWait k).toArch := by
  have hrun : s.toArch.bare.run = s.run := rfl
  have hpending : s.toArch.bare.pending = s.pending := rfl
  unfold State.resolveWait
  rw [hrun, hpending]
  split <;> rfl

theorem State.setKey_toArch (s : State) (k : Nibble) (p : Bool) :
    (s.setKey k p).toArch = { s.toArch with key := s.toArch.key.set k.toNat p k.isLt } := rfl

theorem setKeyState_archOf (code : Nat) (p : Bool) (s : State) :
    archOf (setKeyState code p s.toArch.bare) = archOf (setKeyState code p s) := by
  by_cases hc : code < 16
  · simp only [setKeyState_inRange _ p hc, archOf_next, State.setKey_toArch]
    cases p
    · rfl
    · simp only [if_true, State.resolveWait_toArch]
  · simp [setKeyState, Nat.not_lt.1 hc, archOf]

theorem hostHalt_archOf (s : State) : archOf (hostHalt s.toArch.bare) = archOf (hostHalt s) := by
  have hrun : s.toArch.bare.run = s.run := rfl
  unfold hostHalt
  rw [hrun]
  split <;> rfl

/-- Every event is one of the relation's moves, under inputs that name it. -/
theorem exists_input_of_event (e : Event) (s : State) :
    ∃ input : Input, input.event = e ∧ Arch.step input s.toArch = archOf (applyEvent e s) := by
  cases e with
  | core => exact ⟨.core s.drawnByte, rfl, coreStepOn_archOf_of_toArch_eq rfl⟩
  | doFrame budget window =>
    obtain ⟨w, hw, hloop⟩ := exists_frameLoopBy_archOf budget window 0 s s.toArch.bare rfl
    exact ⟨.doFrame budget w, by rw [Input.event, hw], hloop⟩
  | tick => exact ⟨.tick, rfl, rfl⟩
  | setKeyState code p => exact ⟨.setKeyState code p, rfl, setKeyState_archOf code p s⟩
  | clearKeyState => exact ⟨.clearKeyState, rfl, rfl⟩
  | halt => exact ⟨.halt, rfl, hostHalt_archOf s⟩

/-- Settles O60: the inputs of the next event, on the tuple that taking it off the agenda leaves as it is. -/
theorem stepFollowsTheRelation : Obligations.StepFollowsTheRelation := by
  intro s
  rw [step_eq_applyEvent]
  exact exists_input_of_event s.nextEvent s.popAgenda

end Sys2Proof.Machine
end

section
/-!
PROOFS. What the machine holds after construction with an empty image (10_state.md R32, 20_memory.md R46).
-/

namespace Sys2Proof.Machine

theorem fontData_length : Config.fontData.length = 80 := by decide

/-- After construction with an empty image Memory holds the font, and zero past it. -/
theorem reset_readByte (a : Addr) : State.reset.readByte a = (Config.fontData[a.toNat]?).getD 0#8 := by
  simp [State.reset, State.readByte, Memory.read, Memory.unlisted, Config.fontBase]

/-- Settles O50: the fields by their definition, the font by its eighty bytes. -/
theorem resetHoldsTheStatedValues : Obligations.ResetHoldsTheStatedValues := by
  refine ⟨rfl, rfl, rfl, rfl, rfl, rfl, rfl, fun r => ?_, fun k => ?_, fun r c => ?_, fun a ha => ?_, fun a ha => ?_,
    ?_⟩
  · simp [State.reset, State.reg]
  · simp [State.reset, State.pressed]
  · exact Display.get_clear r c
  · have hnone : Config.fontData[a.toNat]? = none := List.getElem?_eq_none (fontData_length ▸ ha)
    rw [reset_readByte, hnone, Option.getD_none]
  · have hlt : a.toNat < Config.fontData.length := fontData_length ▸ ha
    rw [reset_readByte, List.getElem?_eq_getElem hlt, Option.getD_some]
  · decide

/-- Settles O54: after construction no wait is pending, nothing is saved and PC is LOAD_BASE. -/
theorem resetIsLegal : Obligations.ResetIsLegal where
  memoryCanonical := rfl
  pcInRange := by decide
  returnsInRange := by simp [State.reset]
  pendingIffBlocked := by simp [State.reset]
  loadingCounters := by simp [State.reset]

end Sys2Proof.Machine
end

section
/-!
PROOFS. Memory and the fetch (20_memory.md): the bound of both fetches (R41), and what a fetch reads right after bytes were
stored from I up (R39, R55).
-/

namespace Sys2Proof.Machine

/-! ### The fetch bound -/

theorem keepsAllBut_setAgenda (s : State) (l : List Event) : KeepsAllBut [.agenda] s (s.setAgenda l) := by
  intro p hp; cases p <;> simp_all [Part.same]

/-- The core's step where the fetch is out of bounds. -/
theorem coreStep_of_lastFetch_lt {s : State} (hr : s.run = .running) (hp : 0xFFE < s.pc.toNat) :
    coreStep s = .next s.haltOutOfBounds := by
  rcases coreStep_cases s with ⟨hnot, _⟩ | ⟨_, _, he⟩ | ⟨_, hle, _⟩
  · exact absurd hr hnot
  · exact he
  · omega

/-- The skip where the second fetch is out of bounds. -/
theorem State.skipNext_of_lastFetch_lt {s : State} (hp : 0xFFE < s.pc.toNat) : s.skipNext = s.haltOutOfBounds := by
  rcases s.skipNext_cases with ⟨hle, _⟩ | ⟨_, he⟩
  · exact absurd hle (Nat.not_le.2 hp)
  · exact he

/-- Settles O8: both fetches end in `haltOutOfBounds`, the step's after the agenda's entry is taken. -/
theorem outOfBoundsFetchHalts : Obligations.OutOfBoundsFetchHalts := by
  refine ⟨fun s hcore hrun hpc => ?_, fun s hpc => ?_⟩
  · refine ⟨s.popAgenda.haltOutOfBounds, ?_, rfl, ?_⟩
    · rw [step_core hcore]
      exact coreStep_of_lastFetch_lt hrun (Nat.lt_of_succ_lt_succ hpc)
    · exact ((keepsAllBut_setAgenda s _).append (keepsAllBut_haltOutOfBounds _)).mono (by simp)
  · rw [State.skipNext_of_lastFetch_lt (Nat.lt_of_succ_lt_succ hpc)]
    exact ⟨rfl, (keepsAllBut_haltOutOfBounds s).mono (by simp)⟩

/-! ### Bytes stored from I up, and the fetch after them -/

/-- `t` holds `stored 0`, `stored 1`, ... at the `n` addresses from `s`'s I up, and `s`'s byte at every other address. -/
structure StoresFromI (s t : State) (n : Nat) (stored : Nat → Byte) : Prop where
  readByte_dataAddr : ∀ k < n, t.readByte (s.dataAddr k) = stored k
  readByte_elsewhere : ∀ a : Addr, (∀ k < n, a ≠ s.dataAddr k) → t.readByte a = s.readByte a

section
variable {s t : State} {n : Nat} {stored : Nat → Byte}

theorem storesFromI_zero (s : State) (stored : Nat → Byte) : StoresFromI s s 0 stored where
  readByte_dataAddr := fun _ hk => absurd hk (Nat.not_lt_zero _)
  readByte_elsewhere := fun _ _ => rfl

/-- One more byte stored: its address is none of those before it while there are at most 4096 of them. -/
theorem StoresFromI.writeByte (h : StoresFromI s t n stored) (hn : n < 4096) :
    StoresFromI s (t.writeByte (s.dataAddr n) (stored n)) (n + 1) stored where
  readByte_dataAddr k hk := by
    rw [State.readByte_writeByte]
    by_cases hkn : k = n
    · rw [hkn, if_pos rfl]
    · have hne : s.dataAddr k ≠ s.dataAddr n := fun e => hkn (s.dataAddr_inj (by omega) hn e)
      rw [if_neg hne, h.readByte_dataAddr k (by omega)]
  readByte_elsewhere a ha := by
    rw [State.readByte_writeByte, if_neg (ha n n.lt_succ_self)]
    exact h.readByte_elsewhere a fun k hk => ha k (hk.trans n.lt_succ_self)

theorem storesFromI_storeBlock (s : State) (hn : n ≤ 4096) :
    StoresFromI s (s.storeBlock n) n (fun k => s.reg (BitVec.ofNat 4 k)) where
  readByte_dataAddr _ hk := s.readByte_storeBlock n hn hk
  readByte_elsewhere a ha := s.readByte_storeBlock_ne n a ha

theorem State.readByte_ofNat (s : State) {a : Nat} (ha : a < 4096) : s.readByte (BitVec.ofNat 12 a) = s.mem.read a := by
  rw [State.readByte, BitVec.toNat_ofNat, Nat.mod_eq_of_lt ha]

theorem StoresFromI.storedOrKept (h : StoresFromI s t n stored) {a : Nat} (ha : a < 4096) :
    StoredOrKept s n stored a (t.mem.read a) := by
  rw [← t.readByte_ofNat ha]
  refine ⟨fun k hk hka => ?_, fun hne => ?_⟩
  · rw [← hka]
    exact h.readByte_dataAddr k hk
  · rw [← s.readByte_ofNat ha]
    exact h.readByte_elsewhere _ fun k hk => (hne k hk).symm

/-- The fetch at the PC that the stores left alone reads each of its two bytes as stored or as it was. -/
theorem StoresFromI.fetchWord (h : StoresFromI s t n stored) (hpc : t.pc = s.pc) (hle : s.pc.toNat ≤ 0xFFE) :
    ∃ first second, t.fetchWord = some (wordOfBytes first second) ∧
      StoredOrKept s n stored s.pc.toNat first ∧ StoredOrKept s n stored (s.pc.toNat + 1) second := by
  refine ⟨_, _, t.fetchWord_eq (hpc ▸ hle), ?_, ?_⟩ <;> rw [hpc] <;> exact h.storedOrKept (by omega)

end

/-! ### The two instructions that store -/

/-- The `k`-th decimal digit of a byte, the hundreds first (42_index_memory.md R101). -/
def bcdDigit (b : Byte) (k : Nat) : Byte := BitVec.ofNat 8 (b.toNat / 10 ^ (2 - k) % 10)

theorem bcdDigit_zero (b : Byte) : bcdDigit b 0 = hundreds b := by
  have hb := b.isLt
  have hlt : b.toNat / 10 ^ 2 < 10 := by omega
  rw [bcdDigit, Nat.sub_zero, Nat.mod_eq_of_lt hlt]; rfl

theorem bcdDigit_one (b : Byte) : bcdDigit b 1 = tens b := rfl

theorem bcdDigit_two (b : Byte) : bcdDigit b 2 = ones b := by
  rw [bcdDigit, Nat.sub_self, Nat.pow_zero, Nat.div_one]; rfl

/-- FX55 stores V0..VX from I up and leaves PC alone (R102). -/
theorem exists_exec_store (s : State) (x : Reg) :
    ∃ t, exec (.store x) s = .next t ∧ t.pc = s.pc ∧
      StoresFromI s t (x.toNat + 1) (fun k => s.reg (BitVec.ofNat 4 k)) := by
  have hx := x.isLt
  have hst := storesFromI_storeBlock s (n := x.toNat + 1) (by omega)
  refine ⟨(s.storeBlock (x.toNat + 1)).setI _, rfl, ?_, ⟨hst.readByte_dataAddr, hst.readByte_elsewhere⟩⟩
  exact keepsAllBut_storeBlock s _ .pc (by simp)

/-- FX33 stores the three digits of V[X] from I up and leaves PC alone (R101). -/
theorem exists_exec_bcd (s : State) (x : Reg) :
    ∃ t, exec (.bcd x) s = .next t ∧ t.pc = s.pc ∧ StoresFromI s t 3 (bcdDigit (s.reg x)) := by
  refine ⟨_, rfl, rfl, ?_⟩
  rw [← bcdDigit_zero, ← bcdDigit_one, ← bcdDigit_two]
  have h1 := (storesFromI_zero s (bcdDigit (s.reg x))).writeByte (by omega)
  have h2 := h1.writeByte (by omega)
  exact h2.writeByte (by omega)

/-- Settles O32: both instructions store from I up and leave PC alone, and the next fetch reads what that leaves. -/
theorem storedBytesAreFetched : Obligations.StoredBytesAreFetched := by
  intro s x hpc
  constructor
  · obtain ⟨t, he, hpc', hst⟩ := exists_exec_store s x
    obtain ⟨first, second, hbytes⟩ := hst.fetchWord hpc' hpc
    exact ⟨t, first, second, he, hbytes⟩
  · obtain ⟨t, he, hpc', hst⟩ := exists_exec_bcd s x
    obtain ⟨first, second, hbytes⟩ := hst.fetchWord hpc' hpc
    exact ⟨t, first, second, he, hbytes⟩

end Sys2Proof.Machine
end

section
/-!
PROOFS. The encoding (30_encoding.md): the decoder and the encoder undo each other (R57 to R62, R67), and the words of the
no-op space run with no effect (R65, R66).
-/

namespace Sys2Proof.Machine

/-! ### The two bytes a decoder takes -/

theorem decode_cons_cons (first second : Byte) (rest : List Byte) :
    decode (first :: second :: rest) = .ok (decodeWord (wordOfBytes first second), rest) := rfl

/-- Settles O4: one clause for each length of the input, as `decode` has them. -/
theorem decoderConsumesTwoBytes : Obligations.DecoderConsumesTwoBytes :=
  ⟨decode_cons_cons, fun _ => rfl, rfl⟩

/-! ### A word of a given family is the format of its own fields -/

section
variable {w : Word} {k : Nat} (h : (fieldFamily w).toNat = k)
include h

theorem formatNNN_of_family : formatNNN (BitVec.ofNat 4 k) (fieldNNN w) = w := by
  rw [← eq_ofNat_of_toNat h, formatNNN_fields]

theorem formatXNN_of_family : formatXNN (BitVec.ofNat 4 k) (fieldX w) (fieldNN w) = w := by
  rw [← eq_ofNat_of_toNat h, formatXNN_fields]

theorem formatXYN_of_family : formatXYN (BitVec.ofNat 4 k) (fieldX w) (fieldY w) (fieldN w) = w := by
  rw [← eq_ofNat_of_toNat h, formatXYN_fields]

end

/-- Settles O2: the decoder's branch names the family, and the family's format of the word's fields is the word. -/
theorem everyWordIsOneInstruction : Obligations.EveryWordIsOneInstruction := by
  intro w
  unfold decodeWord
  split
  case h_1 h =>
    obtain ⟨hwf, henc, _⟩ := decodeFamily0_spec (fieldNNN w)
    exact ⟨hwf, henc.trans (formatNNN_of_family h)⟩
  case h_6 h =>
    obtain ⟨hwf, henc, _⟩ := decodeFamily5_spec (fieldX w) (fieldY w) (fieldN w)
    exact ⟨hwf, henc.trans (formatXYN_of_family h)⟩
  case h_9 h =>
    obtain ⟨hwf, henc, _⟩ := decodeFamily8_spec (fieldX w) (fieldY w) (fieldN w)
    exact ⟨hwf, henc.trans (formatXYN_of_family h)⟩
  case h_10 h =>
    obtain ⟨hwf, henc, _⟩ := decodeFamily9_spec (fieldX w) (fieldY w) (fieldN w)
    exact ⟨hwf, henc.trans (formatXYN_of_family h)⟩
  case h_15 h =>
    obtain ⟨hwf, henc, _⟩ := decodeFamilyE_spec (fieldX w) (fieldNN w)
    exact ⟨hwf, henc.trans (formatXNN_of_family h)⟩
  case h_16 =>
    have hF : (fieldFamily w).toNat = 0xF := by
      have hlt := (fieldFamily w).isLt
      simp only [imp_false] at *
      omega
    obtain ⟨hwf, henc, _⟩ := decodeFamilyF_spec (fieldX w) (fieldNN w)
    exact ⟨hwf, henc.trans (formatXNN_of_family hF)⟩
  case h_2 h | h_3 h | h_11 h | h_12 h => exact ⟨rfl, formatNNN_of_family h⟩
  case h_4 h | h_5 h | h_7 h | h_8 h | h_13 h => exact ⟨rfl, formatXNN_of_family h⟩
  case h_14 h => exact ⟨rfl, formatXYN_of_family h⟩

/-! ### The families that sub-decode, by the family of the word and by the format that builds it -/

section
variable {w : Word}

theorem decodeWord_family0 (h : fieldFamily w = 0x0#4) : decodeWord w = decodeFamily0 (fieldNNN w) := by
  rw [decodeWord, h]; rfl

theorem decodeWord_family5 (h : fieldFamily w = 0x5#4) :
    decodeWord w = decodeFamily5 (fieldX w) (fieldY w) (fieldN w) := by
  rw [decodeWord, h]; rfl

theorem decodeWord_family8 (h : fieldFamily w = 0x8#4) :
    decodeWord w = decodeFamily8 (fieldX w) (fieldY w) (fieldN w) := by
  rw [decodeWord, h]; rfl

theorem decodeWord_family9 (h : fieldFamily w = 0x9#4) :
    decodeWord w = decodeFamily9 (fieldX w) (fieldY w) (fieldN w) := by
  rw [decodeWord, h]; rfl

theorem decodeWord_familyE (h : fieldFamily w = 0xE#4) : decodeWord w = decodeFamilyE (fieldX w) (fieldNN w) := by
  rw [decodeWord, h]; rfl

theorem decodeWord_familyF (h : fieldFamily w = 0xF#4) : decodeWord w = decodeFamilyF (fieldX w) (fieldNN w) := by
  rw [decodeWord, h]; rfl

end

section
variable (nnn : Addr) (x y : Reg) (n : Nibble) (nn : Byte)

theorem decodeWord_format0 : decodeWord (formatNNN 0x0#4 nnn) = decodeFamily0 nnn := by
  rw [decodeWord_family0 (fieldFamily_formatNNN _ _), fieldNNN_formatNNN]

theorem decodeWord_format5 : decodeWord (formatXYN 0x5#4 x y n) = decodeFamily5 x y n := by
  rw [decodeWord_family5 (fieldFamily_formatXYN _ _ _ _), fieldX_formatXYN, fieldY_formatXYN, fieldN_formatXYN]

theorem decodeWord_format8 : decodeWord (formatXYN 0x8#4 x y n) = decodeFamily8 x y n := by
  rw [decodeWord_family8 (fieldFamily_formatXYN _ _ _ _), fieldX_formatXYN, fieldY_formatXYN, fieldN_formatXYN]

theorem decodeWord_format9 : decodeWord (formatXYN 0x9#4 x y n) = decodeFamily9 x y n := by
  rw [decodeWord_family9 (fieldFamily_formatXYN _ _ _ _), fieldX_formatXYN, fieldY_formatXYN, fieldN_formatXYN]

theorem decodeWord_formatE : decodeWord (formatXNN 0xE#4 x nn) = decodeFamilyE x nn := by
  rw [decodeWord_familyE (fieldFamily_formatXNN _ _ _), fieldX_formatXNN, fieldNN_formatXNN]

theorem decodeWord_formatF : decodeWord (formatXNN 0xF#4 x nn) = decodeFamilyF x nn := by
  rw [decodeWord_familyF (fieldFamily_formatXNN _ _ _), fieldX_formatXNN, fieldNN_formatXNN]

end

/-! ### Decoding what was encoded -/

/-- The rows of a family differ in the selector alone; a no-op row is reached because its selector is no other row's. -/
theorem decodeWord_encode {i : Instr} (h : i.wf = true) : decodeWord (encode i) = i := by
  cases i
  case cls | ret => rfl
  case sys nnn =>
    obtain ⟨_, _, hnop⟩ := decodeFamily0_spec nnn
    exact (decodeWord_format0 nnn).trans (hnop h)
  case seReg => exact decodeWord_format5 _ _ _
  case nop5 x y n =>
    obtain ⟨_, _, hnop⟩ := decodeFamily5_spec x y n
    exact (decodeWord_format5 x y n).trans (hnop h)
  case ldReg | orReg | andReg | xorReg | addReg | sub | shr | subn | shl => exact decodeWord_format8 _ _ _
  case nop8 x y n =>
    obtain ⟨_, _, hnop⟩ := decodeFamily8_spec x y n
    exact (decodeWord_format8 x y n).trans (hnop h)
  case sneReg => exact decodeWord_format9 _ _ _
  case nop9 x y n =>
    obtain ⟨_, _, hnop⟩ := decodeFamily9_spec x y n
    exact (decodeWord_format9 x y n).trans (hnop h)
  case skp | sknp => exact decodeWord_formatE _ _
  case nopE x nn =>
    obtain ⟨_, _, hnop⟩ := decodeFamilyE_spec x nn
    exact (decodeWord_formatE x nn).trans (hnop h)
  case ldVxDt | ldVxK | ldDt | ldSt | addI | ldF | bcd | store | load => exact decodeWord_formatF _ _
  case nopF x nn =>
    obtain ⟨_, _, hnop⟩ := decodeFamilyF_spec x nn
    exact (decodeWord_formatF x nn).trans (hnop h)
  case jp | call | ldI | jpV0 => simp [encode, decodeWord, fieldFamily_formatNNN, fieldNNN_formatNNN]
  case seImm | sneImm | ldImm | addImm | rnd =>
    simp [encode, decodeWord, fieldFamily_formatXNN, fieldX_formatXNN, fieldNN_formatXNN]
  case drw =>
    simp [encode, decodeWord, fieldFamily_formatXYN, fieldX_formatXYN, fieldY_formatXYN, fieldN_formatXYN]

/-- The two bytes of an instruction carry its word to the decoder (20_memory.md R40). -/
theorem decode_encodeBytes_append (i : Instr) (rest : List Byte) :
    decode (encodeBytes i ++ rest) = .ok (decodeWord (encode i), rest) := by
  rw [encodeBytes, List.cons_append, List.cons_append, List.nil_append, decode_cons_cons, wordOfBytes_bytes]

/-- Settles O1: the bytes make the word again, and the word decodes to the instruction. -/
theorem decodeEncodeRoundTrip : Obligations.DecodeEncodeRoundTrip := by
  intro i rest hwf
  rw [decode_encodeBytes_append, decodeWord_encode hwf]

/-! ### The no-op space -/

/-- A word of family 0 other than 00E0 and 00EE leaves a NNN of the no-op row. -/
theorem sys_wf_of_family0 {w : Word} (hf : fieldFamily w = 0x0#4) (hcls : w ≠ 0x00E0#16) (hret : w ≠ 0x00EE#16) :
    (Instr.sys (fieldNNN w)).wf = true := by
  have hw : formatNNN 0x0#4 (fieldNNN w) = w := hf ▸ formatNNN_fields w
  have hE0 : fieldNNN w ≠ 0x0E0#12 := fun e => hcls (by rw [← hw, e]; rfl)
  have hEE : fieldNNN w ≠ 0x0EE#12 := fun e => hret (by rw [← hw, e]; rfl)
  simp [Instr.wf, hE0, hEE]

/-- The seven N that R66 lists for family 8 are the ones no other row of the family has. -/
theorem nop8_wf_of_mem (x y : Reg) {n : Nibble} (h : n ∈ [0x8#4, 0x9#4, 0xA#4, 0xB#4, 0xC#4, 0xD#4, 0xF#4]) :
    (Instr.nop8 x y n).wf = true := by
  have unselected : ∀ m ∈ [0x8#4, 0x9#4, 0xA#4, 0xB#4, 0xC#4, 0xD#4, 0xF#4], (Instr.nop8 x y m).wf = true := by
    simp only [Instr.wf]
    decide
  exact unselected n h

/-- Settles O5: a word of each family of the no-op space decodes to that family's no-op row. -/
theorem unrecognizedWordsAreNops : Obligations.UnrecognizedWordsAreNops := by
  intro w s h
  rcases h with ⟨hf, hcls, hret⟩ | ⟨hf, hn⟩ | ⟨hf, hn⟩ | ⟨hf, hn⟩ | ⟨hf, hskp, hsknp⟩ | ⟨hf, hnn⟩
  · obtain ⟨_, _, hnop⟩ := decodeFamily0_spec (fieldNNN w)
    rw [decodeWord_family0 hf, hnop (sys_wf_of_family0 hf hcls hret)]; rfl
  · obtain ⟨_, _, hnop⟩ := decodeFamily5_spec (fieldX w) (fieldY w) (fieldN w)
    rw [decodeWord_family5 hf, hnop (bne_iff_ne.2 hn)]; rfl
  · obtain ⟨_, _, hnop⟩ := decodeFamily8_spec (fieldX w) (fieldY w) (fieldN w)
    rw [decodeWord_family8 hf, hnop (nop8_wf_of_mem _ _ hn)]; rfl
  · obtain ⟨_, _, hnop⟩ := decodeFamily9_spec (fieldX w) (fieldY w) (fieldN w)
    rw [decodeWord_family9 hf, hnop (bne_iff_ne.2 hn)]; rfl
  · obtain ⟨_, _, hnop⟩ := decodeFamilyE_spec (fieldX w) (fieldNN w)
    rw [decodeWord_familyE hf, hnop (by simp [Instr.wf, familyESelectors, hskp, hsknp])]; rfl
  · obtain ⟨_, _, hnop⟩ := decodeFamilyF_spec (fieldX w) (fieldNN w)
    have hwf : (Instr.nopF (fieldX w) (fieldNN w)).wf = true := by simpa [Instr.wf, familyFSelectors] using hnn
    rw [decodeWord_familyF hf, hnop hwf]; rfl

/-! ### Fixed words -/

/-- Settles O3: each row's word evaluated. -/
theorem sampleWordsDecode : Obligations.SampleWordsDecode := by
  unfold Obligations.SampleWordsDecode
  decide

end Sys2Proof.Machine
end

section
/-!
PROOFS. Control (40_control.md): the core's step (R70), returns, jumps and calls (R74 to R77), the skips of families 3, 4, 5
and 9 (R72, R78 to R81) and the no-op rows.
-/

namespace Sys2Proof.Machine

/-! ### The core's step -/

theorem coreStep_of_not_running {s : State} (hr : s.run ≠ .running) : coreStep s = .next s := by
  rcases coreStep_cases s with ⟨_, he⟩ | ⟨hrun, _⟩ | ⟨hrun, _⟩
  · exact he
  · exact absurd hrun hr
  · exact absurd hrun hr

/-- The core's step where the fetch is in bounds: the two bytes at PC decoded, and run with PC advanced. -/
theorem coreStep_of_le_lastFetch {s : State} (hr : s.run = .running) (hp : s.pc.toNat ≤ 0xFFE) :
    coreStep s = exec (decodeWord (wordOfBytes (s.mem.read s.pc.toNat) (s.mem.read (s.pc.toNat + 1)))) s.advancePc := by
  rcases coreStep_cases s with ⟨hnot, _⟩ | ⟨_, hlt, _⟩ | ⟨_, _, w, hw, he⟩
  · exact absurd hr hnot
  · omega
  · rw [s.fetchWord_eq hp] at hw
    cases hw
    exact he

/-- Settles O6: taking the core's move off the agenda leaves the fetch and its two bytes as they are. -/
theorem stepRunsDecodedInstruction : Obligations.StepRunsDecodedInstruction := by
  intro s i hcore hrun hpc hdecode
  rw [decode_cons_cons] at hdecode
  cases hdecode
  rw [step_core hcore]
  exact coreStep_of_le_lastFetch (s := s.popAgenda) hrun hpc

/-- Settles O7: the run state is checked before the fetch, and only the agenda's entry is taken. -/
theorem coreDoesNothingUnlessRunning : Obligations.CoreDoesNothingUnlessRunning := by
  intro s hcore hrun
  rw [step_core hcore]
  exact coreStep_of_not_running (s := s.popAgenda) hrun

/-! ### The halting fetch leaves PC alone -/

/-- Where the second fetch is out of bounds a skip leaves PC alone, taken or not. -/
theorem State.skipIf_pc_of_lastFetch_lt {s : State} (hp : 0xFFE < s.pc.toNat) (c : Bool) : (s.skipIf c).pc = s.pc := by
  rcases s.skipIf_cases c with ⟨_, e⟩ | ⟨_, hle, _⟩ | ⟨_, _, e⟩
  · rw [e]
  · exact absurd hle (Nat.not_le.2 hp)
  · rw [e, State.haltOutOfBounds_pc]

/-- Settles O9: the step and the skip halt through `haltOutOfBounds`, and the six instructions do no more than skip. -/
theorem haltingFetchLeavesPc : Obligations.HaltingFetchLeavesPc := by
  refine ⟨fun s t hcore hrun hpc hstep => ?_, fun s hpc => ?_, fun s x y nn i hpc hi => ?_⟩
  · rw [step_core hcore, coreStep_of_lastFetch_lt (s := s.setAgenda s.agenda.tail) hrun hpc] at hstep
    cases hstep
    rfl
  · rw [State.skipNext_of_lastFetch_lt hpc, State.haltOutOfBounds_pc]
  · have hskip : ∃ c, exec i s = .next (s.skipIf c) := by
      simp only [List.mem_cons, List.not_mem_nil, or_false] at hi
      rcases hi with rfl | rfl | rfl | rfl | rfl | rfl <;> exact ⟨_, rfl⟩
    obtain ⟨c, he⟩ := hskip
    exact ⟨_, he, State.skipIf_pc_of_lastFetch_lt hpc c⟩

/-! ### Every row runs; the no-op rows do nothing -/

/-- Settles O10: each row's meaning is a next state. -/
theorem execAlwaysCompletes : Obligations.ExecAlwaysCompletes := exec_completes

/-- Settles O11: each of the six meanings is the state it is given. -/
theorem noOpRowsChangeNothing : Obligations.NoOpRowsChangeNothing :=
  fun _ _ _ _ _ _ => ⟨rfl, rfl, rfl, rfl, rfl, rfl⟩

/-! ### Return, jump, call -/

theorem exec_ret (s : State) : exec .ret s = .next s.popToPc := rfl

theorem exec_call (s : State) (nnn : Addr) : exec (.call nnn) s = .next ((s.push s.pc).setPc (jumpTarget nnn)) := rfl

/-- Settles O13: the two cases of `popToPc`, its frame the one of the row (10_state.md R33). -/
theorem returnPopsOrDoesNothing : Obligations.ReturnPopsOrDoesNothing := by
  refine fun s => ⟨fun hnil => ?_, fun l a hconcat => ?_⟩
  · rw [exec_ret, State.popToPc_nil hnil]
  · refine ⟨s.popToPc, exec_ret s, ?_, ?_, keepsAllBut_popToPc s⟩ <;> rw [State.popToPc_concat hconcat]
    · rw [State.setPc_pc]
    · rw [State.setPc_stack, State.pop_stack, hconcat, List.dropLast_concat]

/-- Settles O14: NNN is zero-extended, so no bit of it is lost. -/
theorem jumpSetsPc : Obligations.JumpSetsPc :=
  fun s nnn => ⟨_, rfl, jumpTarget_toNat nnn, keepsAllBut_setPc s _⟩

/-- Settles O15: a push, then a jump. -/
theorem callPushesAndJumps : Obligations.CallPushesAndJumps :=
  fun s nnn => ⟨_, exec_call s nnn, rfl, jumpTarget_toNat nnn,
    instructionsWriteOnlyTheirParts (.call nnn) s _ (exec_call s nnn)⟩

/-- Settles O16: thirteen bits hold the largest sum, 0xFFF + 0xFF. -/
theorem jumpWithOffsetDoesNotWrap : Obligations.JumpWithOffsetDoesNotWrap :=
  fun s nnn => ⟨_, rfl, jumpTarget_add_toNat nnn _, keepsAllBut_setPc s _⟩

/-- A return undoes a push, wherever PC has gone since. -/
theorem State.popToPc_setPc_push (s : State) (a b : PcVal) : ((s.push a).setPc b).popToPc = s.setPc a := by
  have hstack : ((s.push a).setPc b).stack = s.stack ++ [a] := rfl
  rw [State.popToPc_concat hstack]
  simp only [State.setPc, State.pop, State.push, List.dropLast_concat]

/-- Settles O17: the return takes PC back to where the call left from, and with it the whole state. -/
theorem callThenReturnResumes : Obligations.CallThenReturnResumes := by
  intro s nnn
  have hret : exec .ret ((s.push s.pc).setPc (jumpTarget nnn)) = .next s := by
    rw [exec_ret, State.popToPc_setPc_push]
    rfl
  exact ⟨_, s, exec_call s nnn, hret, rfl, rfl, .refl [] s⟩

/-! ### Skips -/

/-- SkipNext() is what R72 says of a taken skip. -/
theorem skips_skipNext (s : State) : Skips s s.skipNext := by
  have hframe : KeepsAllBut [.pc, .run] s s.skipNext := keepsAllBut_skipIf s true
  rcases s.skipNext_cases with ⟨hle, e⟩ | ⟨hlt, e⟩
  · refine ⟨fun _ => ?_, fun hlt => absurd hle (Nat.not_le.2 hlt), hframe⟩
    rw [e]
    exact ⟨by rw [State.advancePc_pc]; unfold Config.lastFetch at hle; bv_omega, State.advancePc_run s⟩
  · exact ⟨fun hle => absurd hle (Nat.not_le.2 hlt), fun _ => by rw [e, State.haltOutOfBounds_run], hframe⟩

/-- Two instructions that skip on opposite conditions: whichever way the condition falls, one skips and the other does
nothing. -/
theorem exec_skip_or_next {i j : Instr} {s : State} {c : Bool} (hi : exec i s = .next (s.skipIf c))
    (hj : exec j s = .next (s.skipIf !c)) :
    (c = true → (∃ t, exec i s = .next t ∧ Skips s t) ∧ exec j s = .next s) ∧
    (c = false → (∃ t, exec j s = .next t ∧ Skips s t) ∧ exec i s = .next s) := by
  constructor <;> rintro rfl
  · exact ⟨⟨_, hi, skips_skipNext s⟩, hj⟩
  · exact ⟨⟨_, hj, skips_skipNext s⟩, hi⟩

/-- Settles O18: 3XNN and 4XNN compare V[X] with NN and skip on opposite answers. -/
theorem immediateSkips : Obligations.ImmediateSkips := by
  intro s x nn
  obtain ⟨equal, different⟩ := exec_skip_or_next (i := .seImm x nn) (j := .sneImm x nn) (s := s) rfl rfl
  exact ⟨fun h => equal (beq_iff_eq.2 h), fun h => different (beq_eq_false_iff_ne.2 h)⟩

/-- Settles O19: 5XY0 and 9XY0 compare V[X] with V[Y] and skip on opposite answers. -/
theorem registerSkips : Obligations.RegisterSkips := by
  intro s x y
  obtain ⟨equal, different⟩ := exec_skip_or_next (i := .seReg x y) (j := .sneReg x y) (s := s) rfl rfl
  exact ⟨fun h => equal (beq_iff_eq.2 h), fun h => different (beq_eq_false_iff_ne.2 h)⟩

end Sys2Proof.Machine
end

section
/-!
PROOFS. Arithmetic and logic (41_alu.md): families 6, 7, 8 and C. An instruction writes V[X] alone, or V[X] and then the
flag (00_scope.md R12); each proof below adds what the written bytes are.
-/

namespace Sys2Proof.Machine

/-! ### The two ways a row of these families writes -/

/-- A row that writes one register: its value, and what it leaves alone. -/
theorem exec_writes_reg {i : Instr} {s : State} {x : Reg} {b : Byte} (h : exec i s = .next (s.setReg x b)) :
    ∃ t, exec i s = .next t ∧ t.reg x = b ∧ (∀ r, r ≠ x → t.reg r = s.reg r) ∧ KeepsAllBut [.v] s t :=
  ⟨_, h, s.reg_setReg_same x b, fun _ hr => s.reg_setReg_ne b hr, keepsAllBut_setReg s x b⟩

theorem State.reg_setResultAndFlag_flag (s : State) (x : Reg) (r : Byte × Byte) :
    (s.setResultAndFlag x r).reg Config.flagReg = r.2 := by
  rw [State.reg_setResultAndFlag, if_pos rfl]

theorem State.reg_setResultAndFlag_same (s : State) {x : Reg} (r : Byte × Byte) (hx : x ≠ Config.flagReg) :
    (s.setResultAndFlag x r).reg x = r.1 := by
  rw [State.reg_setResultAndFlag, if_neg hx, if_pos rfl]

/-- A row that writes a result and then the flag: the flag is what remains in VF, whatever X is (00_scope.md R12). -/
theorem exec_writes_result_and_flag {i : Instr} {s : State} {x : Reg} {r : Byte × Byte}
    (h : exec i s = .next (s.setResultAndFlag x r)) :
    ∃ t, exec i s = .next t ∧ (x ≠ 0xF#4 → t.reg x = r.1) ∧ t.reg 0xF#4 = r.2 ∧
      (∀ q, q ≠ x → q ≠ 0xF#4 → t.reg q = s.reg q) ∧ KeepsAllBut [.v] s t :=
  ⟨_, h, s.reg_setResultAndFlag_same r, s.reg_setResultAndFlag_flag x r,
    fun _ hx hf => s.reg_setResultAndFlag_ne r hx hf, keepsAllBut_setResultAndFlag s x r⟩

/-! ### The numbers that results and shifted-out bits stand for -/

theorem addWithCarry_fst_toNat (a b : Byte) : (addWithCarry a b).1.toNat = (a.toNat + b.toNat) % 256 := by
  rw [addWithCarry_eq]
  exact BitVec.toNat_add a b

theorem subNoBorrow_fst_toNat (a b : Byte) : (subNoBorrow a b).1.toNat = (a.toNat + 256 - b.toNat) % 256 := by
  rw [subNoBorrow_eq]
  bv_omega

theorem shiftRightOut_fst_toNat (b : Byte) : (shiftRightOut b).1.toNat = b.toNat / 2 := by
  rw [shiftRightOut, BitVec.toNat_ushiftRight, Nat.shiftRight_eq_div_pow]

theorem shiftRightOut_snd_toNat (b : Byte) : (shiftRightOut b).2.toNat = b.toNat % 2 := by
  rw [shiftRightOut, BitVec.toNat_and]
  exact Nat.and_one_is_mod _

theorem shiftLeftOut_fst_toNat (b : Byte) : (shiftLeftOut b).1.toNat = 2 * b.toNat % 256 := by
  rw [shiftLeftOut, BitVec.toNat_shiftLeft, Nat.shiftLeft_eq, Nat.mul_comm]

theorem shiftLeftOut_snd_toNat (b : Byte) : (shiftLeftOut b).2.toNat = b.toNat / 128 := by
  have hb : b.toNat < 256 := b.isLt
  have hbit : (shiftLeftOut b).2.toNat = b.toNat / 2 ^ 7 % 2 := by
    rw [shiftLeftOut, BitVec.toNat_and, BitVec.toNat_ushiftRight, Nat.shiftRight_eq_div_pow]
    exact Nat.and_one_is_mod _
  omega

/-! ### Rows without a flag -/

/-- Settles O21: the two loads write one register. -/
theorem loadsWriteOneRegister : Obligations.LoadsWriteOneRegister :=
  fun _ _ _ _ => ⟨exec_writes_reg rfl, exec_writes_reg rfl⟩

/-- Settles O22: the sum of two bytes is their sum mod 256, and no flag is written. -/
theorem addImmediateLeavesFlag : Obligations.AddImmediateLeavesFlag := fun s x nn =>
  (exec_writes_reg (i := .addImm x nn) (s := s) rfl).imp fun _ ⟨he, hx, frame⟩ =>
    ⟨he, by rw [hx]; exact BitVec.toNat_add _ _, frame⟩

/-- Settles O23: the three rows write one register, and each operation acts bit by bit. -/
theorem logicWritesOnlyDestination : Obligations.LogicWritesOnlyDestination := fun s x y =>
  ⟨(exec_writes_reg (i := .orReg x y) (s := s) rfl).imp fun _ ⟨he, hx, frame⟩ =>
      ⟨he, fun _ => by rw [hx, BitVec.getLsbD_or], frame⟩,
    (exec_writes_reg (i := .andReg x y) (s := s) rfl).imp fun _ ⟨he, hx, frame⟩ =>
      ⟨he, fun _ => by rw [hx, BitVec.getLsbD_and], frame⟩,
    (exec_writes_reg (i := .xorReg x y) (s := s) rfl).imp fun _ ⟨he, hx, frame⟩ =>
      ⟨he, fun _ => by rw [hx, BitVec.getLsbD_xor], frame⟩⟩

/-- Settles O27: the byte of the draw count is masked into V[X]; drawing touches no register. -/
theorem randomByteIsMasked : Obligations.RandomByteIsMasked := by
  refine fun s x nn => ⟨s.afterDraw.setReg x (s.drawnByte &&& nn), rfl, fun j => ?_, rfl, fun r hr => ?_, ?_⟩
  · rw [State.reg_setReg_same, BitVec.getLsbD_and, State.drawnByte]
  · rw [State.reg_setReg_ne _ _ hr, State.afterDraw_reg]
  · exact instructionsWriteOnlyTheirParts (.rnd x nn) s _ rfl

/-! ### Rows that write a result, then the flag -/

/-- Settles O24: the carry of `addWithCarry` is the flag. -/
theorem addRegisterSetsCarry : Obligations.AddRegisterSetsCarry := fun s x y =>
  (exec_writes_result_and_flag (i := .addReg x y) (s := s) rfl).imp fun _ ⟨he, hx, hflag, frame⟩ =>
    ⟨he, fun hne => by rw [hx hne, addWithCarry_fst_toNat], by rw [hflag, addWithCarry_eq], frame⟩

/-- A row that subtracts `b` from `a` into V[X]: the difference mod 256, and the no-borrow flag (41_alu.md R91, R93). -/
theorem exec_subtracts {i : Instr} {s : State} {x : Reg} {a b : Byte}
    (h : exec i s = .next (s.setResultAndFlag x (subNoBorrow a b))) :
    ∃ t, exec i s = .next t ∧ (x ≠ 0xF#4 → (t.reg x).toNat = (a.toNat + 256 - b.toNat) % 256) ∧
      t.reg 0xF#4 = (if b.toNat ≤ a.toNat then 1#8 else 0#8) ∧
      (∀ r, r ≠ x → r ≠ 0xF#4 → t.reg r = s.reg r) ∧ KeepsAllBut [.v] s t :=
  (exec_writes_result_and_flag h).imp fun _ ⟨he, hx, hflag, frame⟩ =>
    ⟨he, fun hne => by rw [hx hne, subNoBorrow_fst_toNat], by rw [hflag, subNoBorrow_eq], frame⟩

/-- Settles O25: 8XY5 and 8XY7 subtract with their operands exchanged. -/
theorem subtractsSetNoBorrow : Obligations.SubtractsSetNoBorrow :=
  fun _ _ _ => ⟨exec_subtracts rfl, exec_subtracts rfl⟩

/-- Settles O26: both shifts read V[Y] and put the bit shifted out in the flag. -/
theorem shiftsTakeTheSource : Obligations.ShiftsTakeTheSource := fun s x y =>
  ⟨(exec_writes_result_and_flag (i := .shr x y) (s := s) rfl).imp fun _ ⟨he, hx, hflag, frame⟩ =>
      ⟨he, fun hne => by rw [hx hne, shiftRightOut_fst_toNat], by rw [hflag, shiftRightOut_snd_toNat], frame⟩,
    (exec_writes_result_and_flag (i := .shl x y) (s := s) rfl).imp fun _ ⟨he, hx, hflag, frame⟩ =>
      ⟨he, fun hne => by rw [hx hne, shiftLeftOut_fst_toNat], by rw [hflag, shiftLeftOut_snd_toNat], frame⟩⟩

end Sys2Proof.Machine
end

section
/-!
PROOFS. The address register and the memory instructions (42_index_memory.md): what I becomes (R98 to R100), and the
bytes and registers that FX33, FX55 and FX65 write (R101 to R103).
-/

namespace Sys2Proof.Machine

/-! ### The address register -/

theorem State.dataAddr_zero (s : State) : s.dataAddr 0 = s.i := BitVec.add_zero s.i

theorem State.dataAddr_toNat (s : State) (k : Nat) : (s.dataAddr k).toNat = (s.i.toNat + k) % 4096 := by
  rw [State.dataAddr, BitVec.toNat_add, BitVec.toNat_ofNat]
  exact Nat.add_mod_mod _ _ _

theorem addr_add_byte_toNat (a : Addr) (b : Byte) : (a + b.setWidth 12).toNat = (a.toNat + b.toNat) % 4096 := by
  have hb : b.toNat < 2 ^ 12 := b.isLt.trans (by decide)
  rw [BitVec.toNat_add, BitVec.toNat_setWidth, Nat.mod_eq_of_lt hb]

/-- The sixteen glyphs lie within the first 80 bytes, so that the address does not wrap (R100). -/
theorem glyphAddr_toNat (b : Byte) : (glyphAddr b).toNat = 5 * (b.toNat % 16) := by
  have hlow : (b &&& 0xF#8).toNat = b.toNat % 16 := Nat.and_two_pow_sub_one_eq_mod b.toNat 4
  rw [glyphAddr, BitVec.toNat_ofNat, hlow, Config.fontBase, Config.glyphStride]
  omega

/-- A row that writes the address register: its value, and what it leaves alone. -/
theorem exec_writes_i {i : Instr} {s : State} {a : Addr} (h : exec i s = .next (s.setI a)) :
    ∃ t, exec i s = .next t ∧ t.i = a ∧ KeepsAllBut [.i] s t :=
  ⟨_, h, s.setI_i a, keepsAllBut_setI s a⟩

/-- Settles O28: the three rows write I, each with the number its address stands for. -/
theorem addressRegisterWrites : Obligations.AddressRegisterWrites := fun s _ x =>
  ⟨exec_writes_i rfl,
    (exec_writes_i (i := .addI x) (s := s) rfl).imp fun _ ⟨he, hi, frame⟩ =>
      ⟨he, by rw [hi, addr_add_byte_toNat], frame⟩,
    (exec_writes_i (i := .ldF x) (s := s) rfl).imp fun _ ⟨he, hi, frame⟩ =>
      ⟨he, by rw [hi, glyphAddr_toNat], frame⟩⟩

/-! ### The decimal digits -/

theorem bcdDigit_toNat (b : Byte) (k : Nat) : (bcdDigit b k).toNat = b.toNat / 10 ^ (2 - k) % 10 := by
  have hlt : b.toNat / 10 ^ (2 - k) % 10 < 2 ^ 8 := (Nat.mod_lt _ (by decide)).trans (by decide)
  rw [bcdDigit, BitVec.toNat_ofNat, Nat.mod_eq_of_lt hlt]

/-- A byte has no more than three decimal digits. -/
theorem bcdDigit_zero_toNat (b : Byte) : (bcdDigit b 0).toNat = b.toNat / 100 := by
  have hb : b.toNat < 256 := b.isLt
  have hlt : b.toNat / 100 < 10 := by omega
  exact (bcdDigit_toNat b 0).trans (Nat.mod_eq_of_lt hlt)

/-- Settles O29: FX33 stores the three digits from I up. -/
theorem bcdStoresThreeDigits : Obligations.BcdStoresThreeDigits := by
  intro s x
  obtain ⟨t, he, _, hst⟩ := exists_exec_bcd s x
  have digit (k : Nat) (hk : k < 3) : (t.readByte (s.dataAddr k)).toNat = (bcdDigit (s.reg x) k).toNat := by
    rw [hst.readByte_dataAddr k hk]
  refine ⟨t, he, ?_, ?_, ?_, fun a h0 h1 h2 => ?_, instructionsWriteOnlyTheirParts (.bcd x) s t he⟩
  · rw [← s.dataAddr_zero, digit 0 (by decide), bcdDigit_zero_toNat]
  · exact (digit 1 (by decide)).trans (bcdDigit_toNat _ 1)
  · exact (digit 2 (by decide)).trans ((bcdDigit_toNat _ 2).trans (by rw [Nat.sub_self, Nat.pow_zero, Nat.div_one]))
  · have hne : ∀ k < 3, a ≠ s.dataAddr k
      | 0, _ => s.dataAddr_zero ▸ h0
      | 1, _ => h1
      | 2, _ => h2
    exact hst.readByte_elsewhere a hne

/-! ### The block instructions -/

theorem exec_store_i {s t : State} {x : Reg} (he : exec (.store x) s = .next t) : t.i = s.dataAddr (x.toNat + 1) := by
  cases he; rfl

theorem exec_load_i {s t : State} {x : Reg} (he : exec (.load x) s = .next t) : t.i = s.dataAddr (x.toNat + 1) := by
  cases he; rfl

/-- What FX65 leaves in each register (R103). -/
theorem exec_load_reg {s t : State} {x : Reg} (he : exec (.load x) s = .next t) (r : Reg) :
    t.reg r = if r.toNat < x.toNat + 1 then s.readByte (s.dataAddr r.toNat) else s.reg r := by
  cases he
  rw [State.setI_reg, State.reg_loadBlock _ _ x.isLt]

/-- Settles O30: FX55 stores the registers up to V[X], each named by its number, from I up. -/
theorem blockStoreCopiesRegisters : Obligations.BlockStoreCopiesRegisters := by
  intro s x
  obtain ⟨t, he, _, hst⟩ := exists_exec_store s x
  refine ⟨t, he, fun r hr => ?_, fun a ha => ?_, ?_, instructionsWriteOnlyTheirParts (.store x) s t he⟩
  · have hbyte : t.readByte (s.dataAddr r.toNat) = s.reg (BitVec.ofNat 4 r.toNat) :=
      hst.readByte_dataAddr r.toNat (Nat.lt_succ_of_le hr)
    rwa [BitVec.ofNat_toNat, BitVec.setWidth_eq] at hbyte
  · exact hst.readByte_elsewhere a fun k hk => ha k (Nat.le_of_lt_succ hk)
  · rw [exec_store_i he, s.dataAddr_toNat, Nat.add_assoc]

/-- Settles O31: FX65 loads the registers up to V[X] and no other. -/
theorem blockLoadFillsRegisters : Obligations.BlockLoadFillsRegisters := by
  intro s x
  have he : exec (.load x) s = .next _ := rfl
  refine ⟨_, he, fun r hr => ?_, fun r hr => ?_, ?_, instructionsWriteOnlyTheirParts (.load x) s _ he⟩
  · exact (exec_load_reg he r).trans (if_pos (Nat.lt_succ_of_le hr))
  · exact (exec_load_reg he r).trans (if_neg (Nat.not_lt.2 hr))
  · rw [exec_load_i he, s.dataAddr_toNat, Nat.add_assoc]

end Sys2Proof.Machine
end

section
/-!
PROOFS. The display instructions (43_display.md). What DXYN composites is read pixel by pixel, through the laws of the
compositor; that a second draw undoes the first then follows from what one draw does.
-/

namespace Sys2Proof.Machine

/-! ### Buffers and bits -/

/-- Bit `k` of a display byte is the pixel `7 - k` to the right of the byte's left edge (10_state.md R26). -/
theorem Display.getLsbD_get (d : Display) (r : Fin 32) (c : Fin 8) {k : Nat} (hk : k < 8) :
    (d.get r c).getLsbD k = d.pixel ⟨8 * c.val + (7 - k), by omega⟩ r := by
  have hbyte : Fin.ofNat 8 ((8 * c.val + (7 - k)) / 8) = c := by
    apply Fin.ext
    simp only [Fin.ofNat]
    omega
  have hbit : 7 - (8 * c.val + (7 - k)) % 8 = k := by omega
  simp only [Display.pixel, hbyte, hbit]

/-- Two buffers with equal pixels are equal. -/
theorem Display.ext_pixel {d e : Display} (h : ∀ px py, d.pixel px py = e.pixel px py) : d = e :=
  Display.ext_get fun r c => BitVec.eq_of_getLsbD_eq fun k hk => by
    rw [d.getLsbD_get r c hk, e.getLsbD_get r c hk, h]

theorem Display.pixel_of_get_eq_zero {d : Display} (h : ∀ r c, d.get r c = 0#8) (px : Fin 64) (py : Fin 32) :
    d.pixel px py = false := by
  rw [Display.pixel, h, BitVec.getLsbD_zero]

/-- The line `k` of a sprite and the bit `j` of it lie on some pixel of the buffer, wherever the sprite's origin is. -/
theorem Display.exists_pixel_of_line_bit {cx cy k j : Nat} (hcx : cx < 64) (hcy : cy < 32) (hk : k < 32) (hj : j < 8) :
    ∃ (px : Fin 64) (py : Fin 32), Display.across cx px = 7 - j ∧ Display.down cy py = k := by
  refine ⟨Fin.ofNat 64 (cx + (7 - j)), spriteRow cy k, ?_, (Display.spriteRow_eq cy k hcy hk _).1 rfl⟩
  simp only [Display.across, Fin.ofNat]
  omega

/-! ### What the sprite of a draw lights -/

/-- The pixels that DXYN lights, in the terms of the compositor's laws. -/
theorem State.spriteLit_eq (s : State) (x y : Reg) (n : Nibble) (px : Fin 64) (py : Fin 32) :
    s.spriteLit x y n px py =
      (decide (Display.down (spriteTop (s.reg y)) py < n.toNat) &&
        Display.lineLit (spriteColumn (s.reg x)) (s.spriteLine (Display.down (spriteTop (s.reg y)) py)) px) := by
  rw [Display.lineLit, Bool.and_left_comm, ← Bool.and_assoc]
  rfl

/-- The pixels that DXYN lights depend on its two registers, on I and on Memory alone. -/
theorem State.spriteLit_congr {s t : State} {x y : Reg} (hx : t.reg x = s.reg x) (hy : t.reg y = s.reg y)
    (hi : t.i = s.i) (hmem : ∀ a, t.readByte a = s.readByte a) (n : Nibble) (px : Fin 64) (py : Fin 32) :
    t.spriteLit x y n px py = s.spriteLit x y n px py := by
  simp only [State.spriteLit, hx, hy, hi, hmem]

/-- A sprite lights some pixel exactly when one of its lines has a bit set. -/
theorem State.exists_spriteLit_iff (s : State) (x y : Reg) (n : Nibble) :
    (∃ px py, s.spriteLit x y n px py = true) ↔ ∃ k < n.toNat, s.spriteLine k ≠ 0#8 := by
  simp only [State.spriteLit_eq, Display.lineLit, Bool.and_eq_true, decide_eq_true_eq]
  constructor
  · rintro ⟨px, py, hdown, _, hbit⟩
    refine ⟨_, hdown, fun hzero => ?_⟩
    rw [hzero, BitVec.getLsbD_zero] at hbit
    exact absurd hbit Bool.false_ne_true
  · rintro ⟨k, hk, hline⟩
    obtain ⟨j, hj, hbit, _⟩ := (Display.and_ne_zero (s.spriteLine k) (s.spriteLine k)).1 (by
      rwa [BitVec.and_self, bne_iff_ne])
    obtain ⟨px, py, hacross, hdown⟩ := Display.exists_pixel_of_line_bit (cx := spriteColumn (s.reg x))
      (cy := spriteTop (s.reg y)) (Nat.mod_lt _ (by decide)) (Nat.mod_lt _ (by decide)) (hk.trans (by omega)) hj
    refine ⟨px, py, by rwa [hdown], by omega, ?_⟩
    rwa [hdown, hacross, show 7 - (7 - j) = j by omega]

/-! ### What a draw composites -/

theorem State.pixel_composite (s : State) (x y : Reg) (n : Nibble) (px : Fin 64) (py : Fin 32) :
    (s.composite x y n).1.pixel px py = (s.disp.pixel px py ^^ s.spriteLit x y n px py) := by
  rw [State.spriteLit_eq]
  exact Display.pixel_drawLines s.disp _ _ (Nat.mod_lt _ (by decide)) (Nat.mod_lt _ (by decide)) _ _ (by omega) px py

theorem State.composite_hit_iff (s : State) (x y : Reg) (n : Nibble) :
    (s.composite x y n).2 = true ↔ ∃ px py, s.disp.pixel px py = true ∧ s.spriteLit x y n px py = true := by
  simp only [State.spriteLit_eq, Bool.and_eq_true, decide_eq_true_eq]
  exact Display.drawLines_hit_iff s.disp _ _ (Nat.mod_lt _ (by decide)) (Nat.mod_lt _ (by decide)) _ _ (by omega)

theorem exec_drw (s : State) (x y : Reg) (n : Nibble) :
    exec (.drw x y n) s =
      .next ((s.setDisp (s.composite x y n).1).setReg Config.flagReg (collisionFlag (s.composite x y n).2)) := rfl

/-! ### The obligations -/

/-- Settles O12: the whole buffer is replaced by the clear one. -/
theorem clearScreenClearsEveryByte : Obligations.ClearScreenClearsEveryByte :=
  fun s => ⟨_, rfl, Display.get_clear, keepsAllBut_setDisp s _⟩

/-- Settles O33: the compositor's two laws, that of its pixels and that of its collision; VF is written last. -/
theorem drawXorsEveryPixel : Obligations.DrawXorsEveryPixel := by
  intro s x y n
  have he := exec_drw s x y n
  have hhit := s.composite_hit_iff x y n
  have hflag := (s.setDisp (s.composite x y n).1).reg_setReg_same Config.flagReg (collisionFlag (s.composite x y n).2)
  refine ⟨_, he, s.pixel_composite x y n, fun hlit => ?_, fun hunlit => ?_, fun r hr => ?_,
    instructionsWriteOnlyTheirParts (.drw x y n) s _ he⟩
  · exact hflag.trans (congrArg collisionFlag (hhit.2 hlit))
  · have hmiss : (s.composite x y n).2 = false :=
      Bool.eq_false_iff.2 fun h => (hhit.1 h).elim fun px ⟨py, hpixel⟩ => hunlit px py hpixel
    exact hflag.trans (congrArg collisionFlag hmiss)
  · exact (State.reg_setReg_ne _ _ hr).trans (State.setDisp_reg ..)

/-- Settles O34: the first draw leaves what the sprite is made of as it is, so that both draws XOR the same pixels. -/
theorem drawTwiceRestores : Obligations.DrawTwiceRestores := by
  intro s x y n hx hy
  obtain ⟨t, het, htpixel, _, _, htreg, frame⟩ := drawXorsEveryPixel s x y n
  obtain ⟨u, heu, hupixel, hhit, hmiss, _, _⟩ := drawXorsEveryPixel t x y n
  have hsame := State.spriteLit_congr (htreg x hx) (htreg y hy) (frame .i (by decide)) (frame .mem (by decide)) n
  have hrestored : u.disp = s.disp := Display.ext_pixel fun px py => by
    rw [hupixel, htpixel, hsame, Bool.xor_assoc, Bool.xor_self, Bool.xor_false]
  refine ⟨t, u, het, heu, fun r c => by rw [hrestored], fun hclear => ?_⟩
  have hlit (px : Fin 64) (py : Fin 32) : t.disp.pixel px py = s.spriteLit x y n px py := by
    rw [htpixel, Display.pixel_of_get_eq_zero hclear, Bool.false_xor]
  simp only [hlit, hsame, and_self] at hhit hmiss
  refine ⟨fun hline => hhit ((s.exists_spriteLit_iff x y n).2 hline), fun hzero => hmiss fun px py hpixel => ?_⟩
  obtain ⟨k, hk, hne⟩ := (s.exists_spriteLit_iff x y n).1 ⟨px, py, hpixel⟩
  exact hne (hzero k hk)

end Sys2Proof.Machine
end

section
/-!
PROOFS. Families E and F (44_timers_input.md): the skips on the key latch (R112, R113), the two counters as registers
(R115, R117, R118) and the start of a key wait (R116).
-/

namespace Sys2Proof.Machine

/-! ### Skips on the key latch -/

/-- The key that a byte names is its low nibble. -/
theorem keyOf_eq_of_toNat {b : Byte} {k : Nibble} (hk : k.toNat = b.toNat % 16) : keyOf b = k :=
  BitVec.eq_of_toNat_eq ((BitVec.toNat_setWidth 4 b).trans hk.symm)

/-- Settles O20: EX9E and EXA1 read the latch at the key that V[X] names and skip on opposite answers. -/
theorem keySkips : Obligations.KeySkips := by
  intro s x k hk
  have hkey : keyOf (s.reg x) = k := keyOf_eq_of_toNat hk
  rw [← hkey]
  exact exec_skip_or_next (i := .skp x) (j := .sknp x) (s := s) rfl rfl

/-! ### The counters as registers -/

/-- Settles O35: FX07 writes one register, FX15 and FX18 one counter each. -/
theorem timerRegisterAccess : Obligations.TimerRegisterAccess := fun s x =>
  ⟨exec_writes_reg rfl,
    ⟨_, rfl, s.setDt_dt (s.reg x), keepsAllBut_setDt s (s.reg x)⟩,
    ⟨_, rfl, s.setSt_st (s.reg x), keepsAllBut_setSt s (s.reg x)⟩⟩

/-! ### The key wait -/

/-- Settles O36: FX0A begins the wait without reading the latch. -/
theorem keyWaitBegins : Obligations.KeyWaitBegins := fun s x =>
  ⟨_, rfl, s.beginWait_pending x, s.beginWait_run x, keepsAllBut_beginWait s x⟩

end Sys2Proof.Machine
end

section
/-!
PROOFS. The host's operations on a living engine (60_exceptions.md R125, R133, R134, R138) and over its life (R137,
70_reset_and_hazards.md R147, R149).
-/

namespace Sys2Proof.Machine

/-! ### What each operation leaves alone -/

section
variable (s : State)

theorem keepsAllBut_setKey (k : Nibble) (p : Bool) : KeepsAllBut [.key] s (s.setKey k p) := by
  intro q hq; cases q <;> simp_all [Part.same]

theorem keepsAllBut_clearKeys : KeepsAllBut [.key] s s.clearKeys := by
  intro p hp; cases p <;> simp_all [Part.same]

theorem keepsAllBut_endWait : KeepsAllBut [.pending, .run] s s.endWait := by
  intro p hp; cases p <;> simp_all [Part.same]

theorem keepsAllBut_stop : KeepsAllBut [.run, .pending] s s.stop := by
  intro p hp; cases p <;> simp_all [Part.same]

end

/-! ### The latch and the wait -/

theorem State.pressed_setKey_same (s : State) (k : Nibble) (p : Bool) : (s.setKey k p).pressed k = p := by
  rw [State.pressed_setKey, if_pos rfl]

theorem State.pressed_setKey_ne (s : State) {k q : Nibble} (p : Bool) (h : q ≠ k) :
    (s.setKey k p).pressed q = s.pressed q := by
  rw [State.pressed_setKey, if_neg h]

theorem setKeyState_nibble (s : State) (k : Nibble) (p : Bool) :
    setKeyState k.toNat p s = .next ((if p then s.resolveWait k else s).setKey k p) := by
  rw [setKeyState_inRange s p k.isLt, BitVec.ofNat_toNat, BitVec.setWidth_eq]

theorem State.resolveWait_of_blocked {s : State} {x : Reg} (hb : s.run = .blocked) (hx : s.pending = some x)
    (k : Nibble) : s.resolveWait k = (s.setReg x (k.setWidth 8)).endWait := by
  simp [State.resolveWait, hb, hx]

theorem State.resolveWait_of_no_wait {s : State} (h : s.run ≠ .blocked ∨ s.pending = none) (k : Nibble) :
    s.resolveWait k = s := by
  rcases s.resolveWait_cases k with ⟨x, hb, hx, _⟩ | ⟨_, he⟩
  · simp [hb, hx] at h
  · exact he

/-- A key event is refused, or it ends what wait there is and writes the latch. -/
theorem setKeyState_cases (code : Nat) (p : Bool) (s : State) :
    setKeyState code p s = .refused (.keyCodeOutOfRange code) ∨
      ∃ k, setKeyState code p s = .next ((if p then s.resolveWait k else s).setKey k p) := by
  rcases Nat.lt_or_ge code 16 with hc | hc
  · exact .inr ⟨_, setKeyState_inRange s p hc⟩
  · exact .inl (if_pos hc)

/-- Settles O37: the press ends the wait, then sets its bit of the latch. -/
theorem keyPressEndsWait : Obligations.KeyPressEndsWait := by
  intro s x k hb hx
  have hpress : setKeyState k.toNat true s = .next (((s.setReg x (k.setWidth 8)).endWait).setKey k true) := by
    rw [setKeyState_nibble, if_pos rfl, State.resolveWait_of_blocked hb hx]
  refine ⟨_, hpress, ?_, fun r hr => ?_, rfl, rfl, State.pressed_setKey_same _ k true, fun q hq => ?_, ?_⟩
  · rw [State.setKey_reg, State.endWait_reg, State.reg_setReg_same]
    exact BitVec.toNat_setWidth_of_le (by decide)
  · exact s.reg_setReg_ne _ hr
  · exact State.pressed_setKey_ne _ true hq
  · exact ((keepsAllBut_setReg s x _).append (keepsAllBut_endWait _)).append (keepsAllBut_setKey _ k true)

/-- Settles O38: with nothing to end, only the latch is written. -/
theorem keyEventWithoutWaitOnlyLatches : Obligations.KeyEventWithoutWaitOnlyLatches := by
  intro s k p h
  have hlatch : setKeyState k.toNat p s = .next (s.setKey k p) := by
    rw [setKeyState_nibble]
    cases p with
    | false => rfl
    | true => rw [if_pos rfl, State.resolveWait_of_no_wait (h.resolve_left (by decide))]
  exact ⟨_, hlatch, s.pressed_setKey_same k p, fun _ hq => s.pressed_setKey_ne p hq, keepsAllBut_setKey s k p⟩

/-- Settles O39: the code is checked before anything is written. -/
theorem keyCodeAboveFifteenRefused : Obligations.KeyCodeAboveFifteenRefused :=
  fun _ _ _ hcode => if_pos hcode

/-- Settles O40: every bit of the latch is replaced. -/
theorem clearKeysReleasesAll : Obligations.ClearKeysReleasesAll :=
  fun s => ⟨_, rfl, s.pressed_clearKeys, keepsAllBut_clearKeys s⟩

/-! ### The host's halt, and the engine's life -/

theorem hostHalt_of_running_or_blocked {s : State} (h : s.run = .running ∨ s.run = .blocked) :
    hostHalt s = .next s.stop := by
  rcases h with h | h <;> rw [hostHalt, h]

theorem hostHalt_of_halted {s : State} (h : s.run = .halted) : hostHalt s = .next s := by
  rw [hostHalt, h]

/-- Settles O41: Running and Blocked stop, Halted stays. -/
theorem hostHaltStops : Obligations.HostHaltStops :=
  ⟨fun s h => ⟨_, hostHalt_of_running_or_blocked h, s.stop_run, s.stop_pending, keepsAllBut_stop s⟩,
    fun _ h => hostHalt_of_halted h⟩

/-- Settles O53: each clause is an arm of `Engine.apply`. -/
theorem engineLifetime : Obligations.EngineLifetime :=
  ⟨fun _ => rfl, rfl, fun _ _ => rfl, fun _ => rfl⟩

end Sys2Proof.Machine
end

section
/-!
PROOFS. The Timer Unit (60_exceptions.md R128, R129), the parked engine (70_reset_and_hazards.md R158) and frame bursts
(R139, R140): how many steps a burst makes, and that a burst of a final engine is nothing but its ticks.
-/

namespace Sys2Proof.Machine

/-! ### Ticks -/

theorem countDown_toNat_add_one {c : Byte} (h : c ≠ 0#8) : (countDown c).toNat + 1 = c.toNat := by
  have hpos : c.toNat ≠ 0 := fun h0 => h (BitVec.eq_of_toNat_eq h0)
  rw [countDown_toNat, Nat.sub_add_cancel (Nat.pos_of_ne_zero hpos)]

theorem countDown_eq_zero {c : Byte} (h : c = 0#8) : countDown c = 0#8 := by rw [h]; rfl

theorem keepsAllBut_tick (s : State) : KeepsAllBut [.dt, .st] s s.tick :=
  (keepsAllBut_setDt s _).append (keepsAllBut_setSt _ _)

theorem keepsAllBut_ticks (s : State) (n : Nat) : KeepsAllBut [.dt, .st] s (s.ticks n) := by
  induction n with
  | zero => exact .refl _ s
  | succ n ih => exact ih.trans (keepsAllBut_tick _)

theorem State.ticks_ticks (s : State) (m n : Nat) : (s.ticks m).ticks n = s.ticks (m + n) := by
  induction n with
  | zero => rfl
  | succ n ih => rw [State.ticks, ih]; rfl

/-- Settles O42: each counter is counted down by itself. -/
theorem tickCountsDown : Obligations.TickCountsDown :=
  fun s => ⟨_, rfl, countDown_toNat_add_one, countDown_eq_zero, countDown_toNat_add_one, countDown_eq_zero,
    keepsAllBut_tick s⟩

/-- Settles O43: by induction on the ticks, for each counter and for the frame. -/
theorem ticksDrainCounters : Obligations.TicksDrainCounters :=
  fun s n => ⟨s.ticks_dt n, s.ticks_st n, keepsAllBut_ticks s n⟩

/-! ### How far a burst runs -/

theorem frameLoop_of_not_running {s : State} (hr : s.run ≠ .running) (budget : Nat) (window : List Nat)
    (count : Nat) : frameLoop budget window count s = .next (s, count) := by
  cases window with
  | nil => exact frameLoop_nil s budget count
  | cons k later => rw [frameLoop_cons, if_pos hr]

/-- A burst returns; each step it makes uses up an entry of the window and, if there is a budget, a unit of it. -/
theorem frameLoop_returns (budget : Nat) (window : List Nat) :
    ∀ (count : Nat) (s : State), (budget ≠ 0 → count ≤ budget) →
      ∃ t n, frameLoop budget window count s = .next (t, n) ∧ (budget ≠ 0 → n ≤ budget) ∧
        n ≤ count + window.length := by
  induction window with
  | nil => exact fun count s hc => ⟨s, count, frameLoop_nil s budget count, hc, Nat.le_refl _⟩
  | cons k later ih =>
    intro count s hc
    rw [frameLoop_cons]
    split
    · exact ⟨s, count, rfl, hc, Nat.le_add_right _ _⟩
    split
    · exact ⟨s, count, rfl, hc, Nat.le_add_right _ _⟩
    next hbudget =>
      obtain ⟨u, hu⟩ := coreStep_completes (s.ticks k)
      obtain ⟨t, n, hloop, hn, hle⟩ := ih (count + 1) u (by omega)
      rw [hu]
      exact ⟨t, n, hloop, hn, by rw [List.length_cons]; omega⟩

/-- Settles O47: counting from 0; an engine not Running answers before its first step. -/
theorem frameCountWithinBudget : Obligations.FrameCountWithinBudget := by
  intro budget window s
  obtain ⟨t, n, hloop, hbudget, hwindow⟩ := frameLoop_returns budget window 0 s fun _ => Nat.zero_le _
  rw [Nat.zero_add] at hwindow
  refine ⟨t, n, hloop, hbudget, hwindow, fun hr => ?_⟩
  rw [frameLoop_of_not_running hr] at hloop
  cases hloop
  exact ⟨rfl, rfl⟩

/-! ### The parked engine -/

theorem formatNNN_toNat (f : Nibble) (nnn : Addr) : (formatNNN f nnn).toNat = f.toNat <<< 12 ||| nnn.toNat :=
  BitVec.toNat_append f nnn

theorem setWidth_toNat_of_le_lastFetch {a : PcVal} (ha : a.toNat ≤ 0xFFE) : (a.setWidth 12).toNat = a.toNat := by
  rw [BitVec.toNat_setWidth, Nat.mod_eq_of_lt (by omega)]

/-- The word that R158 calls the jump to itself is the encoding of that jump. -/
theorem encode_jp_setWidth {a : PcVal} (ha : a.toNat ≤ 0xFFE) :
    encode (.jp (a.setWidth 12)) = 0x1000#16 ||| a.setWidth 16 := by
  apply BitVec.eq_of_toNat_eq
  rw [encode, formatNNN_toNat, setWidth_toNat_of_le_lastFetch ha, BitVec.toNat_or,
    BitVec.toNat_setWidth_of_le (by decide : 13 ≤ 16)]
  rfl

theorem jumpTarget_setWidth {a : PcVal} (ha : a.toNat ≤ 0xFFE) : jumpTarget (a.setWidth 12) = a := by
  apply BitVec.eq_of_toNat_eq
  rw [jumpTarget_toNat, setWidth_toNat_of_le_lastFetch ha]

theorem coreStep_of_parked {s : State} (h : Parked s) : coreStep s = .next s := by
  obtain ⟨hrun, hpc, hword⟩ := h
  rcases coreStep_cases s with ⟨hnot, _⟩ | ⟨_, hlt, _⟩ | ⟨_, _, w, hw, he⟩
  · exact absurd hrun hnot
  · omega
  · obtain rfl : _ = w := Option.some.inj (hword.symm.trans hw)
    rw [he, ← encode_jp_setWidth hpc, decodeWord_encode rfl]
    have hback : s.advancePc.setPc (jumpTarget (s.pc.setWidth 12)) = s := by rw [jumpTarget_setWidth hpc]; rfl
    exact congrArg Host.Outcome.next hback

theorem Parked.ticks {s : State} (h : Parked s) (n : Nat) : Parked (s.ticks n) := by
  induction n with
  | zero => exact h
  | succ n ih => exact ih

/-- How many steps a burst may still make with `count` of them done: what is left of the budget, or of the window. -/
def burstSteps (budget count entries : Nat) : Nat := if budget = 0 then entries else min (budget - count) entries

section
variable {budget count entries : Nat}

theorem burstSteps_no_entries : burstSteps budget count 0 = 0 := by simp [burstSteps]

theorem burstSteps_budget_spent (h : budget ≠ 0 ∧ count = budget) : burstSteps budget count entries = 0 := by
  simp [burstSteps, h]

theorem burstSteps_budget_left (hc : budget ≠ 0 → count ≤ budget) (h : ¬ (budget ≠ 0 ∧ count = budget)) :
    burstSteps budget count (entries + 1) = burstSteps budget (count + 1) entries + 1 := by
  unfold burstSteps
  split <;> omega

end

/-- In a parked engine a burst makes every step it may, and all that comes of them is the ticks before them. -/
theorem frameLoop_of_parked (budget : Nat) (window : List Nat) :
    ∀ (count : Nat) (s : State), Parked s → (budget ≠ 0 → count ≤ budget) →
      frameLoop budget window count s =
        .next (s.ticks (window.take (burstSteps budget count window.length)).sum,
          count + burstSteps budget count window.length) := by
  induction window with
  | nil =>
    intro count s _ _
    rw [frameLoop_nil, List.length_nil, burstSteps_no_entries]
    rfl
  | cons k later ih =>
    intro count s h hc
    rw [frameLoop_cons, if_neg (not_not.2 h.1), List.length_cons]
    split
    next hspent =>
      rw [burstSteps_budget_spent hspent]
      rfl
    next hleft =>
      rw [coreStep_of_parked (h.ticks k)]
      refine (ih (count + 1) _ (h.ticks k) (by omega)).trans ?_
      rw [burstSteps_budget_left hc hleft, List.take_succ_cons, List.sum_cons, State.ticks_ticks, Nat.add_right_comm,
        Nat.add_assoc]

theorem doFrame_of_parked {s : State} (h : Parked s) (budget : Nat) (window : List Nat) :
    doFrame budget window s =
      .next (s.ticks (window.take (burstSteps budget 0 window.length)).sum, burstSteps budget 0 window.length) := by
  rw [doFrame, frameLoop_of_parked budget window 0 s h fun _ => Nat.zero_le _, Nat.zero_add]

/-- Settles O49: every step the burst may make, counted from 0. -/
theorem frameOnParkedRunsItsBudget : Obligations.FrameOnParkedRunsItsBudget :=
  fun budget window s h => ⟨_, doFrame_of_parked h budget window, keepsAllBut_ticks s _⟩

end Sys2Proof.Machine
end

section
/-!
PROOFS. What every agent's moves keep: no move faults (60_exceptions.md R120, R144), how Blocked is left and that
Halted is not (R124, R142), and that in a final engine a move is its ticks, a latch update or a halt, so that a fair run
drains the counters (R129, R158).
-/

namespace Sys2Proof.Machine

/-! ### No move faults -/

theorem doFrame_completes (budget : Nat) (window : List Nat) (s : State) :
    ∃ t n, doFrame budget window s = .next (t, n) := by
  obtain ⟨t, n, h, _⟩ := frameCountWithinBudget budget window s
  exact ⟨t, n, h⟩

theorem applyEvent_never_faults (e : Event) (s : State) (r : Fault) : applyEvent e s ≠ .fault r := by
  intro h
  cases e with
  | core =>
    obtain ⟨t, ht⟩ := coreStep_completes s
    cases ht.symm.trans h
  | doFrame budget window =>
    obtain ⟨t, n, ht⟩ := doFrame_completes budget window s
    rw [applyEvent, ht] at h
    cases h
  | tick => cases h
  | setKeyState code p =>
    rcases setKeyState_cases code p s with he | ⟨k, he⟩ <;> cases he.symm.trans h
  | clearKeyState => cases h
  | halt => rcases hostHalt_cases s with ⟨_, he⟩ | ⟨_, he⟩ | ⟨_, he⟩ <;> cases he.symm.trans h

/-- Settles O56: a step is one event. -/
theorem stepNeverFaults : Obligations.StepNeverFaults := by
  intro s r
  rw [step_eq_applyEvent]
  exact applyEvent_never_faults _ _ r

/-! ### How Blocked is left -/

theorem State.head?_agenda_of_nextEvent {s : State} {e : Event} (h : s.nextEvent = e) (hne : e ≠ .core) :
    s.agenda.head? = some e := by
  cases ha : s.agenda with
  | nil =>
    rw [State.nextEvent, ha] at h
    exact absurd h.symm hne
  | cons a rest =>
    rw [State.nextEvent, ha] at h
    exact congrArg some h

theorem applyEvent_leaves_blocked {e : Event} {s t : State} (hb : s.run = .blocked) (he : applyEvent e s = .next t)
    (ht : t.run ≠ .blocked) : (∃ code, e = .setKeyState code true) ∨ e = .halt := by
  have hnot : s.run ≠ .running := by simp [hb]
  cases e with
  | core =>
    cases (coreStep_of_not_running hnot).symm.trans he
    exact absurd hb ht
  | doFrame budget window =>
    rw [applyEvent, doFrame, frameLoop_of_not_running hnot] at he
    cases he
    exact absurd hb ht
  | tick => cases he; exact absurd hb ht
  | setKeyState code p =>
    cases p with
    | true => exact .inl ⟨code, rfl⟩
    | false =>
      rcases setKeyState_cases code false s with hs | ⟨k, hs⟩ <;> cases hs.symm.trans he
      exact absurd hb ht
  | clearKeyState => cases he; exact absurd hb ht
  | halt => exact .inr rfl

/-- Settles O46: a press and the halt are no move of the core, so one of them heads the agenda. -/
theorem blockedLeftOnlyByPressOrHalt : Obligations.BlockedLeftOnlyByPressOrHalt := by
  intro s t hb he ht
  rw [step_eq_applyEvent] at he
  rcases applyEvent_leaves_blocked (s := s.popAgenda) hb he ht with ⟨code, hpress⟩ | hhalt
  · exact .inl ⟨code, State.head?_agenda_of_nextEvent hpress nofun⟩
  · exact .inr (State.head?_agenda_of_nextEvent hhalt nofun)

/-! ### Moves of a final engine -/

section
variable {s t : State} {e : Event}

theorem Final.run_ne_blocked (h : Final s) : s.run ≠ .blocked := by
  rcases h with h | ⟨h, _⟩ <;> rw [h] <;> decide

theorem coreStep_of_final (h : Final s) : coreStep s = .next s := by
  rcases h with h | h
  · exact coreStep_of_not_running (by rw [h]; decide)
  · exact coreStep_of_parked h

theorem doFrame_of_final (h : Final s) (budget : Nat) (window : List Nat) :
    ∃ n, doFrame budget window s = .next (s.ticks (window.take n).sum, n) := by
  rcases h with h | h
  · exact ⟨0, frameLoop_of_not_running (by rw [h]; decide) budget window 0⟩
  · exact ⟨_, doFrame_of_parked h budget window⟩

/-- A move of a final engine that goes on is its ticks, a latch update, or the host's halt of a parked engine. -/
theorem applyEvent_of_final (h : Final s) (he : applyEvent e s = .next t) :
    t = s.ticks (ticksIn e s) ∨
      ticksIn e s = 0 ∧ ((∃ k p, t = s.setKey k p) ∨ t = s.clearKeys ∨ s.run = .running ∧ t = s.stop) := by
  cases e with
  | core => cases (coreStep_of_final h).symm.trans he; exact .inl rfl
  | doFrame budget window =>
    obtain ⟨n, hn⟩ := doFrame_of_final h budget window
    rw [applyEvent, hn] at he
    cases he
    exact .inl (by rw [ticksIn, hn])
  | tick => cases he; exact .inl rfl
  | setKeyState code p =>
    rcases setKeyState_cases code p s with hs | ⟨k, hs⟩ <;> cases hs.symm.trans he
    rw [State.resolveWait_of_no_wait (.inl h.run_ne_blocked), ite_self]
    exact .inr ⟨rfl, .inl ⟨k, p, rfl⟩⟩
  | clearKeyState => cases he; exact .inr ⟨rfl, .inr (.inl rfl)⟩
  | halt =>
    rcases h with h | ⟨h, _⟩
    · cases (hostHalt_of_halted h).symm.trans he; exact .inl rfl
    · cases (hostHalt_of_running_or_blocked (.inl h)).symm.trans he; exact .inr ⟨rfl, .inr (.inr ⟨h, rfl⟩)⟩

theorem keepsAllBut_applyEvent_of_halted (h : s.run = .halted) (he : applyEvent e s = .next t) :
    KeepsAllBut [.key, .dt, .st] s t := by
  rcases applyEvent_of_final (.inl h) he with rfl | ⟨_, ⟨k, p, rfl⟩ | rfl | ⟨hrun, _⟩⟩
  · exact (keepsAllBut_ticks s _).mono (by simp)
  · exact (keepsAllBut_setKey s k p).mono (by simp)
  · exact (keepsAllBut_clearKeys s).mono (by simp)
  · rw [h] at hrun; cases hrun

theorem Final.ticks (h : Final s) (n : Nat) : Final (s.ticks n) :=
  h.imp (fun hended => (keepsAllBut_ticks s n .run (by decide)).trans hended) fun hparked => hparked.ticks n

/-- A final engine stays final, and a move takes from each counter the ticks in it. -/
theorem Final.applyEvent_drains (h : Final s) (he : applyEvent e s = .next t) :
    Final t ∧ t.dt.toNat = s.dt.toNat - ticksIn e s ∧ t.st.toNat = s.st.toNat - ticksIn e s := by
  rcases applyEvent_of_final h he with rfl | ⟨hzero, ⟨k, p, rfl⟩ | rfl | ⟨_, rfl⟩⟩
  · exact ⟨h.ticks _, s.ticks_dt _, s.ticks_st _⟩
  · exact ⟨h, by simp [hzero]⟩
  · exact ⟨h, by simp [hzero]⟩
  · exact ⟨.inl rfl, by simp [hzero]⟩

/-- A run of a final engine stays in final states, and takes from each counter the ticks in it. -/
theorem Final.runSchedule_drains {schedule : Nat → Event} (h : Final s) (n : Nat) :
    ∀ {t}, runSchedule schedule s n = .next t →
      Final t ∧ t.dt.toNat = s.dt.toNat - ticksInRun schedule s n ∧
        t.st.toNat = s.st.toNat - ticksInRun schedule s n := by
  induction n with
  | zero => rintro t ⟨⟩; exact ⟨h, rfl, rfl⟩
  | succ n ih =>
    intro u hu
    rw [runSchedule] at hu
    rw [ticksInRun]
    cases hr : runSchedule schedule s n with
    | next t =>
      rw [hr] at hu
      obtain ⟨hfinal, hdt, hst⟩ := ih hr
      obtain ⟨hfinal', hdt', hst'⟩ := hfinal.applyEvent_drains hu
      exact ⟨hfinal', by simp only; omega, by simp only; omega⟩
    | fault r => rw [hr] at hu; cases hu
    | refused r => rw [hr] at hu; cases hu

end

/-- Settles O45: the step takes an entry off the agenda, and its event keeps the run state. -/
theorem haltedIsTerminal : Obligations.HaltedIsTerminal := by
  intro s t h he
  rw [step_eq_applyEvent] at he
  have hframe : KeepsAllBut [.agenda, .key, .dt, .st] s t :=
    (keepsAllBut_setAgenda s _).append (keepsAllBut_applyEvent_of_halted (s := s.popAgenda) h he)
  exact ⟨(hframe .run (by decide)).trans h, hframe.mono (by simp)⟩

/-- Settles O44: a byte holds at most 255, and a fair run has as many ticks in it. -/
theorem fairTicksDrainFinalCounters : Obligations.FairTicksDrainFinalCounters := by
  intro schedule s hfair hfinal
  obtain ⟨n, hn⟩ := hfair 255
  obtain ⟨t, ht⟩ := hfair.next schedule s n
  obtain ⟨_, hdt, hst⟩ := hfinal.runSchedule_drains n ht
  have hdt_lt := s.dt.isLt
  have hst_lt := s.st.isLt
  refine ⟨n, t, ht, BitVec.eq_of_toNat_eq ?_, BitVec.eq_of_toNat_eq ?_⟩
  · exact hdt.trans (Nat.sub_eq_zero_of_le (by omega))
  · exact hst.trans (Nat.sub_eq_zero_of_le (by omega))

end Sys2Proof.Machine
end

section
/-!
PROOFS. Construction (70_reset_and_hazards.md R145, R146), and the core's step of a parked engine (R158).
-/

namespace Sys2Proof.Machine

/-! ### Construction -/

theorem construct_of_length_le {image : List Byte} (h : image.length ≤ 0xE00) :
    construct image = .next (State.loading.copyImage image 0).finishConstruction := if_neg (Nat.not_lt.2 h)

theorem construct_of_length_gt {image : List Byte} (h : 0xE00 < image.length) :
    construct image = .refused (.imageTooLong image.length) := if_pos h

/-- Copying changes Memory alone, and completion takes back the one field by which Loading differs from reset. -/
theorem State.finishConstruction_copyImage (image : List Byte) (k : Nat) :
    (State.loading.copyImage image k).finishConstruction =
      { State.reset with mem := (State.loading.copyImage image k).mem } := by
  obtain ⟨_, _, honly⟩ := State.copyImage_spec image k State.loading
  exact congrArg State.finishConstruction honly

theorem keepsAllBut_replaceMem (s : State) (m : Memory) : KeepsAllBut [.mem] s { s with mem := m } := by
  intro p hp
  cases p <;> simp_all [Part.same, State.reg, State.pressed]

/-- Settles O51: the loader's law from offset 0, over the reset Memory that Loading starts with. -/
theorem constructCopiesImage : Obligations.ConstructCopiesImage := by
  intro image hfits
  obtain ⟨hown, hothers, _⟩ := State.copyImage_spec image 0 State.loading
  refine ⟨_, construct_of_length_le hfits, hown, hothers, ?_⟩
  rw [State.finishConstruction_copyImage]
  exact keepsAllBut_replaceMem State.reset _

/-- Settles O52: the length is checked before anything is copied. -/
theorem constructRefusesLongImages : Obligations.ConstructRefusesLongImages :=
  fun _ => construct_of_length_gt

/-! ### The parked engine -/

/-- Settles O48: the jump to itself undoes the advance of its own fetch. -/
theorem parkedStepChangesNothing : Obligations.ParkedStepChangesNothing :=
  fun _ => coreStep_of_parked

end Sys2Proof.Machine
end
